-- ==== Sys2Proof/Word.lean ====
section
/-!
DEFINITION. The data types of the coax frame codec: words, containers, payloads, bytes, chips.
-/

namespace Sys2Proof

/-- A word: "a 16-bit signed logical value" (R5), held as its 16-bit pattern `u16(w)`. -/
abbrev Word := BitVec 16

/-- The ten bits of a word that are significant on the line (R5, R65). -/
abbrev Payload := BitVec 10

/-- The 32-bit container of one encoded word (R61, R93). -/
abbrev Container := BitVec 32

/-- One byte of a host byte stream (R28, R63). -/
abbrev Byte := BitVec 8

/-- One chip, the line level of one tick (R3, R4): `true` is chip 1 (high), `false` chip 0 (low). -/
abbrev Chip := Bool

/-- The reserved end-of-frame word 0xFFFF (R6). -/
def terminator : Word := 0xFFFF#16

end Sys2Proof
end

