-- ==== Sys2Proof/Config.lean ====
section
/-!
DEFINITION. The parameters of the build (R2), the fixed patterns and rates, and the free values.
-/

namespace Sys2Proof.Config

/-- The OPEN parameters of R2. They are the model's arguments: a State carries them in its field `par`,
no step changes them, and every statement about all states is about all parameters (log entry 3). -/
structure Params where
  /-- `END_PATTERN`, chips of the end-of-frame trailer in time order (R2, R112). -/
  endPattern : List Chip
  /-- `RX_FRAME_MAX`, largest inbound frame in words (R2). -/
  rxFrameMax : Nat
  /-- `TX_CAPACITY`, slots of the transmit buffer (R2, R25). -/
  txCapacity : Nat
  /-- `POLL_TICKS`, ticks between two polls (R2, R156). -/
  pollTicks : Nat
  /-- `TEARDOWN_TICKS`, bound on the duration of teardown (R2, R161). -/
  teardownTicks : Nat
  /-- `ABORT_ACK_TICKS`, how long teardown waits for the abort acknowledge (R2, R161). -/
  abortAckTicks : Nat
  /-- `TIMER_BITS`, hardware width of the timeout and elapsed-time registers (R2, R151). -/
  timerBits : Nat
  /-- `EXPAND_MAX_WORDS`, `none` for unbounded (R2, R180). -/
  expandMaxWords : Option Nat
deriving DecidableEq, Repr

/-- `RX_SLOTS = RX_FRAME_MAX + 1` (R2, R26). -/
def Params.rxSlots (p : Params) : Nat := p.rxFrameMax + 1

/-- The defaults of R2. R2 gives no default for `POLL_TICKS`, `TEARDOWN_TICKS` and `ABORT_ACK_TICKS`:
100, 0 and 0 are what the test vectors of spec/95 use. DESIGN CHOICE, unsafe, log entry 3. -/
def Params.default : Params where
  endPattern := [false, false, true, true]
  rxFrameMax := 4096
  txCapacity := 4096
  pollTicks := 100
  teardownTicks := 0
  abortAckTicks := 0
  timerBits := 32
  expandMaxWords := none

/-- `SYNC_PATTERN = 0101010101` (R112). -/
def syncPattern : List Chip :=
  [false, true, false, true, false, true, false, true, false, true]

/-- `START_PATTERN = 00111` (R112). -/
def startPattern : List Chip := [false, false, true, true, true]

/-- `BIT_RATE`, nominal bits per second (R2). -/
def bitRate : Nat := 2358700

/-- `CHIP_RATE = 2 * BIT_RATE`, nominal ticks per second (R2). -/
def chipRate : Nat := 2 * bitRate

/-- `DEFAULT_TIMEOUT_MS` (R2, R151). -/
def defaultTimeoutMs : Nat := 1000

/-- `POLL_COMMAND`, the word of the source's end-to-end example: OPEN, no value in the source (R2, N8).
No operation reads it. Free value, safe, log entry 28. -/
opaque pollCommand : Word

/-- The chip the environment presents in a tick the input list does not describe (R242).
Free value, safe, log entry 4. -/
opaque envLineIn : Nat → Chip

/-- The abort acknowledge in a tick the input list does not describe (R31).
Free value, safe, log entry 4. -/
opaque envAbortOk : Nat → Bool

/-- What `PCNT` (range 0 to 10, R10) holds after the outbound words were encoded into `TXBUF`.
Free value, safe, log entry 6. -/
opaque freePcnt : Nat → Fin 11

/-- What `XFER_BUSY` shows while the environment withholds the abort acknowledge (R20, R31, R162).
Free value, safe, log entry 7. -/
opaque freeXferBusy : Nat → Bool

/-- The HTTP status a server gives for an outcome the source maps to none (R226, D48).
Free value, safe, log entry 21. -/
opaque openHttpStatus : Nat → Nat

/-- The body of a server's answer that returns no result bytes: the source gives only the body of a completed
transaction (R226, D48). Free value, safe, log entry 21. -/
opaque openHttpBody : Nat → List Byte

end Sys2Proof.Config
end

