-- ==== Sys2Proof/Syntax.lean ====
section
/-!
DEFINITION. The ten operations of the block as syntax (R80), and the operation request `OPREQ` that
carries one (R30, R60, R80).
-/

namespace Sys2Proof

/-- A repeat descriptor `RDESC` (R8, R64): two mathematical integers of any sign. -/
structure RDesc where
  count : Int
  offset : Int
deriving DecidableEq, Repr

/-- The timeout operand of `TRANSACT` (R150, R151). -/
inductive Timeout where
  /-- The request carries none: `DEFAULT_TIMEOUT_MS` holds. -/
  | absent
  /-- A number of milliseconds. -/
  | ms (n : Nat)
  /-- The deadline `T` itself, which R151 lets a model take as the operand. DESIGN CHOICE, log entry 13. -/
  | ticks (n : Nat)
deriving DecidableEq, Repr

/-- The operations of R80, one constructor per row of spec/opcode_table.json. -/
inductive Instr where
  /-- `PARITY v -> p` (R90). -/
  | parity (v : Word)
  /-- `WENC v -> c` (R92). -/
  | wenc (v : Word)
  /-- `WDEC c -> (v, parity_ok)` (R96). -/
  | wdec (c : Container)
  /-- `FTX W -> chip stream` (R110). -/
  | ftx (words : List Word)
  /-- `FRX L -> (words, mismatches)` (R120). -/
  | frx (chips : List Chip)
  /-- `TRANSACT B, timeout_ms -> bytes | error` (R150). -/
  | transact (bytes : List Byte) (timeout : Timeout)
  /-- `TEXP S, (count, offset) -> F` (R180). -/
  | texp (words : List Word) (desc : Option RDesc)
  /-- `TENC S, (count, offset) -> bytes` (R184). -/
  | tenc (words : List Word) (desc : Option RDesc)
  /-- `TDEC B -> words` (R188). -/
  | tdec (bytes : List Byte)
  /-- `TCMP W -> S, (count, offset)` (R192). -/
  | tcmp (words : List Word)
deriving DecidableEq, Repr

/-- An operation request `OPREQ` as the request channel carries it (R30, R80): the 4-bit code `OP` and one
lane for each kind of operand. R60 calls the format the spec's own and no rule gives the operands bit
positions, so the lanes are plain data. DESIGN CHOICE, safe, log entry 2. -/
structure OpReq where
  op : BitVec 4
  word : Word
  container : Container
  words : List Word
  chips : List Chip
  bytes : List Byte
  timeout : Timeout
  desc : Option RDesc
deriving DecidableEq, Repr

/-- A request with code `op` and every operand lane zero, empty or absent. -/
def OpReq.bare (op : BitVec 4) : OpReq where
  op := op
  word := 0
  container := 0
  words := []
  chips := []
  bytes := []
  timeout := .absent
  desc := none

end Sys2Proof
end

