-- ==== Sys2Proof/WellFormed.lean ====
section
/-!
DEFINITION. The checks on what a build and a host may present: the constraints of R2 on the parameters,
and the form of an operation request.
-/

namespace Sys2Proof

namespace Config

/-- Some chips start with the start marker `0`, `1`, which R2 forbids of `END_PATTERN`. -/
def startsWithMarker : List Chip → Bool
  | false :: true :: _ => true
  | _ => false

/-- The constraints R2 puts on the parameters. A build that breaks them is refused (U5 of spec/93). -/
def Params.valid (p : Params) : Bool :=
  decide (2 ≤ p.endPattern.length) && decide (p.endPattern.length ≤ 32) &&
  !startsWithMarker p.endPattern &&
  decide (p.txCapacity ≤ 65536) &&
  decide (1 ≤ p.pollTicks) &&
  decide (p.abortAckTicks ≤ p.teardownTicks)

/-- Whether `pat` occurs in `l` as a run of neighbours. -/
def occursIn (pat : List Chip) : List Chip → Bool
  | [] => pat.isEmpty
  | c :: l => pat.isPrefixOf (c :: l) || occursIn pat l

/-- What R2 and R256 recommend of `END_PATTERN`: `100111` nowhere in `x ++ END_PATTERN ++ 000`. -/
def Params.recommended (p : Params) : Bool :=
  [false, true].all fun x =>
    !occursIn [true, false, false, true, true, true]
      (x :: p.endPattern ++ [false, false, false])

end Config

/-- The codes that select an operation: 0x1 to 0xA (R80, R81). -/
def opDefined (op : BitVec 4) : Bool := decide (1 ≤ op.toNat) && decide (op.toNat ≤ 10)

/-- A request is in the form `encode` writes: its code selects an operation, and every lane that this
operation does not read is zero, empty or absent. -/
def OpReq.wellFormed (r : OpReq) : Bool :=
  opDefined r.op &&
  (r.op == 1#4 || r.op == 2#4 || r.word == 0) &&
  (r.op == 3#4 || r.container == 0) &&
  (r.op == 4#4 || r.op == 7#4 || r.op == 8#4 || r.op == 10#4 || r.words == []) &&
  (r.op == 5#4 || r.chips == []) &&
  (r.op == 6#4 || r.op == 9#4 || r.bytes == []) &&
  (r.op == 6#4 || r.timeout == .absent) &&
  (r.op == 7#4 || r.op == 8#4 || r.desc == none)

end Sys2Proof
end

