-- ==== Sys2Proof/Decode.lean ====
section
/-!
DEFINITION. From an operation request to the operation it asks for (R80, R81), and back.
-/

namespace Sys2Proof

/-- Why a request selects no operation. -/
inductive DecodeError where
  /-- The code is 0x0 or 0xB to 0xF (R81). -/
  | reservedOp (op : BitVec 4)
deriving DecidableEq, Repr

/-- What a decoder answers. -/
inductive Decoded where
  | instr (i : Instr)
  | rejected (e : DecodeError)
deriving DecidableEq, Repr

/-- The operation map of R80, read from a request; the reserved codes of R81 are rejected by name.
Lanes the operation does not have are not read. -/
def decode (r : OpReq) : Decoded :=
  match r.op.toNat with
  | 1 => .instr (.parity r.word)
  | 2 => .instr (.wenc r.word)
  | 3 => .instr (.wdec r.container)
  | 4 => .instr (.ftx r.words)
  | 5 => .instr (.frx r.chips)
  | 6 => .instr (.transact r.bytes r.timeout)
  | 7 => .instr (.texp r.words r.desc)
  | 8 => .instr (.tenc r.words r.desc)
  | 9 => .instr (.tdec r.bytes)
  | 10 => .instr (.tcmp r.words)
  | _ => .rejected (.reservedOp r.op)

/-- The code of an operation (R80). -/
def opcode : Instr → BitVec 4
  | .parity _ => 0x1#4
  | .wenc _ => 0x2#4
  | .wdec _ => 0x3#4
  | .ftx _ => 0x4#4
  | .frx _ => 0x5#4
  | .transact _ _ => 0x6#4
  | .texp _ _ => 0x7#4
  | .tenc _ _ => 0x8#4
  | .tdec _ => 0x9#4
  | .tcmp _ => 0xA#4

/-- The request that asks for an operation (R80): its code, and its operands in their lanes. -/
def encode : Instr → OpReq
  | .parity v => { OpReq.bare 0x1#4 with word := v }
  | .wenc v => { OpReq.bare 0x2#4 with word := v }
  | .wdec c => { OpReq.bare 0x3#4 with container := c }
  | .ftx w => { OpReq.bare 0x4#4 with words := w }
  | .frx l => { OpReq.bare 0x5#4 with chips := l }
  | .transact b t => { OpReq.bare 0x6#4 with bytes := b, timeout := t }
  | .texp w d => { OpReq.bare 0x7#4 with words := w, desc := d }
  | .tenc w d => { OpReq.bare 0x8#4 with words := w, desc := d }
  | .tdec b => { OpReq.bare 0x9#4 with bytes := b }
  | .tcmp w => { OpReq.bare 0xA#4 with words := w }

/-- An operation is well formed when its request is. Its operands are typed so that every one of them is
one the spec gives the operation (R5, R64, R151; U9 and U10 of spec/93 cannot be expressed). -/
def Instr.wellFormed (i : Instr) : Bool := (encode i).wellFormed

/-- The request whose first bits are `w`, numbered as spec/opcode_table.json numbers them: bits 3 to 0 are
`OP`. The table places no other bit, so the operand lanes are zero, empty or absent (log entry 2). -/
def OpReq.ofTableWord (_nbits w : Nat) : OpReq := OpReq.bare (BitVec.ofNat 4 w)

/-- The operation the decoder reads from the table's word `w`. -/
def decodeTableWord (nbits w : Nat) : Option Instr :=
  match decode (OpReq.ofTableWord nbits w) with
  | .instr i => some i
  | .rejected _ => none

end Sys2Proof
end

