-- ==== Sys2Proof/Machine/State.lean ====
section
/-!
DEFINITION. The state of the block as plain data, its outcomes, and the state after reset.
-/

namespace Sys2Proof.Machine

open Sys2Proof.Config (Params)

/-- Why the model stops with a fault. No state that a run from reset reaches raises one (log entry 15). -/
inductive Fault where
  /-- An access to a `TXBUF` slot at or above `TX_CAPACITY`, which R25 and R40 say does not exist. Raised by
  the load of `TXSR` and by arming. Safe. -/
  | txbufSlotAbsent (index : Nat)
  /-- `TXPOS` is past the end of the segment being driven, outside the range R13 gives. Raised by the
  transmitter. Safe. -/
  | txposOutsideSegment
deriving DecidableEq, Repr

/-- Why the model refuses to go on. -/
inductive Refusal where
  /-- The instruction has no meaning in this model yet. Raised by `exec`'s arms only. Safe. -/
  | notModelled (mnemonic : String)
  /-- The parameters break the constraints of R2 (U5 of spec/93 refuses the configuration). Raised by
  `step` before anything else. Safe. -/
  | configurationInvalid
deriving DecidableEq, Repr

/-- The five error kinds of R200. -/
inductive ErrKind where
  | invalidInput
  | invalidFrame
  | receiveTimeout
  | interfaceError
  | fatal
deriving DecidableEq, Repr

/-- `TXST` (R17). -/
inductive TxState where
  | idle
  | sync
  | start
  | word
  | trailer
deriving DecidableEq, Repr

/-- `RXST` (R18). -/
inductive RxState where
  | off
  | quiet
  | arm
  | high
  | z
  | p1
  | p2
  | p3
  | wsA
  | wsB
  | bitA
  | bitB
  | stall
deriving DecidableEq, Repr

/-- `TST` (R19). -/
inductive TState where
  | idle
  | armed
  | inFlight
  | completed
  | timedOut
  | halted
deriving DecidableEq, Repr

/-- A buffer of `w`-bit slots (R25, R26): the slots that do not hold 0, by rising index. A slot is the
smallest unit any access moves (R45), so it is not cut into bytes. -/
abbrev SlotMem (w : Nat) := List (Nat × BitVec w)

/-- The transmitter (R11 to R13, R17, R20, R25, R29). -/
structure TxUnit where
  /-- `TXST` (R17). -/
  txst : TxState
  /-- `TXSR` (R11). -/
  txsr : BitVec 32
  /-- `TXCNT` (R12). -/
  txcnt : BitVec 16
  /-- `TXIDX` (R13). -/
  txidx : BitVec 16
  /-- `TXPOS` (R13). -/
  txpos : BitVec 5
  /-- `TX_DONE` (R20). -/
  txDone : Bool
  /-- `line_out` (R29). -/
  lineOut : Chip
  /-- `TXBUF` (R25). -/
  txbuf : SlotMem 32
deriving DecidableEq, Repr

/-- The receiver (R14, R15, R18, R26). -/
structure RxUnit where
  /-- `RXST` (R18). -/
  rxst : RxState
  /-- `RXSR` (R14). -/
  rxsr : BitVec 11
  /-- `RXNB` (R14). -/
  rxnb : BitVec 4
  /-- `RXA` (R14). -/
  rxa : Chip
  /-- `RXWP` (R15). -/
  rxwp : Nat
  /-- `RXBUF` (R26). -/
  rxbuf : SlotMem 16
deriving DecidableEq, Repr

/-- A `TRANSACT` request whose checks have passed (R152): its bytes and its deadline `T` (R151). -/
structure TransactReq where
  bytes : List Byte
  deadline : Nat
deriving DecidableEq, Repr

/-- The value part of a successful result (R80's results column). -/
inductive OpValue where
  | bit (p : Bool)
  | container (c : Container)
  | decoded (v : Word) (parityOk : Bool)
  | chips (l : List Chip)
  | received (values : List Word) (mismatches : Nat)
  | bytes (b : List Byte)
  | words (w : List Word)
  | compressed (w : List Word) (desc : RDesc)
deriving DecidableEq, Repr

/-- One item the host receives: the end of an operation on the result channel (R30), or the value of a
register it read. The code of the operation is the model's label (log entry 12). -/
inductive Response where
  | ok (op : BitVec 4) (value : OpValue)
  | error (op : BitVec 4) (kind : ErrKind)
  | register (number value : Nat)
deriving DecidableEq, Repr

/-- One thing the host or the environment does next (log entry 1). -/
inductive Input where
  /-- One rising edge of `clk` (R30), with `line_in` (R29) and the abort acknowledge (R31) in that tick. -/
  | tick (lineIn : Chip) (abortOk : Bool)
  /-- A request on the request channel (R30). -/
  | request (r : OpReq)
  /-- A host read of a register (spec/10_state.md section 4). -/
  | readReg (number : Nat)
  /-- A host write of a register, which is ignored (spec/10_state.md section 4, R22). -/
  | writeReg (number value : Nat)
  /-- `rst` asserted at a tick boundary (R240). -/
  | rst
deriving DecidableEq, Repr

/-- Everything the spec gives the block, and the model's own fields that INVENTORY.md lists. -/
structure State where
  /-- The parameters of R2, constant (log entry 3). -/
  par : Params
  /-- `PCNT` (R10). -/
  pcnt : BitVec 4
  /-- The transmitter. -/
  tx : TxUnit
  /-- The receiver. -/
  rx : RxUnit
  /-- `TST` (R19). -/
  tst : TState
  /-- `XFER_BUSY` (R20, R31). -/
  xferBusy : Bool
  /-- `PERRCNT` (R21). -/
  perrcnt : BitVec 16
  /-- `OUTCOME` (R23). -/
  outcome : BitVec 16
  /-- `TIMEOUT` (R24). -/
  timeout : Nat
  /-- `TIMER` (R24). -/
  timer : Nat
  /-- The result captured at the exit poll (R157). -/
  captured : List Byte
  /-- Ticks the teardown under way has waited for the acknowledge (R161). -/
  ackWait : Nat
  /-- Requests held until `TST = Idle`, in the order they arrived (R164). -/
  held : List TransactReq
  /-- What the host and the environment do next, oldest first. The model's own field. -/
  inputs : List Input
  /-- What the host has received, oldest first. The model's own field. -/
  results : List Response
  /-- Selects the next free value. The model's own field. -/
  freeCount : Nat
deriving DecidableEq, Repr

/-- The transmitter after reset (spec/10_state.md section 9). `TXBUF` is unspecified there: every slot 0.
DESIGN CHOICE, unsafe, log entry 5. -/
def TxUnit.reset : TxUnit where
  txst := .idle
  txsr := 0
  txcnt := 0
  txidx := 0
  txpos := 0
  txDone := false
  lineOut := false
  txbuf := []

/-- The receiver after reset (spec/10_state.md section 9). `RXBUF` is unspecified there: every slot 0.
DESIGN CHOICE, unsafe, log entry 5. -/
def RxUnit.reset : RxUnit where
  rxst := .off
  rxsr := 0
  rxnb := 0
  rxa := false
  rxwp := 0
  rxbuf := []

/-- The block with the parameters `p` right after reset (R240, spec/10_state.md section 9). -/
def State.resetWith (p : Params) : State where
  par := p
  pcnt := 0
  tx := TxUnit.reset
  rx := RxUnit.reset
  tst := .idle
  xferBusy := false
  perrcnt := 0
  outcome := 0
  timeout := 0
  timer := 0
  captured := []
  ackWait := 0
  held := []
  inputs := []
  results := []
  freeCount := 0

/-- The block right after reset, with the default parameters of R2 (log entry 3). -/
def State.reset : State := State.resetWith Params.default

end Sys2Proof.Machine
end

