-- ==== Sys2Proof/Machine/Operands.lean ====
section
/-!
DEFINITION. How operand values are assembled and formats are read and written: words and bytes (R63, R67),
words and payloads (R65, R66), chips and containers (R61, R91, R93, R94), timeouts (R151).
-/

namespace Sys2Proof.Machine

/-- `u16`, the 16-bit pattern of a signed value (spec/00_scope.md section 7). -/
def u16 (i : Int) : Word := BitVec.ofInt 16 i

/-- `s16`, the signed value of a 16-bit pattern (spec/00_scope.md section 7). -/
def s16 (w : Word) : Int := w.toInt

/-- `d = u16(v)[9:0]` (R65). -/
def payload (v : Word) : Payload := v.extractLsb' 0 10

/-- `zext_16(d)` (R66). -/
def wordOfPayload (d : Payload) : Word := d.setWidth 16

/-- The payload bits `d9 ... d0`, most significant first (R42). -/
def payloadBits (d : Payload) : List Bool :=
  [d.getLsbD 9, d.getLsbD 8, d.getLsbD 7, d.getLsbD 6, d.getLsbD 5,
   d.getLsbD 4, d.getLsbD 3, d.getLsbD 2, d.getLsbD 1, d.getLsbD 0]

/-- Bits read most significant first as a number (R93, R96). -/
def bitsToNat (l : List Bool) : Nat := l.foldl (fun n b => 2 * n + b.toNat) 0

/-- `pair(b) = (~b, b)` (R91). -/
def pair (b : Bool) : List Chip := [!b, b]

/-- `left_pack` of 24 chips: "read the 24 chips as a binary number with k_0 the most significant digit, and
multiply by 256" (R93). -/
def leftPack (pattern : List Chip) : Container := BitVec.ofNat 32 (bitsToNat pattern * 256)

/-- `chips24(c)`: the chips `c[31]` to `c[8]` in time order (R94). -/
def chips24 (c : Container) : List Chip := (List.range 24).map fun j => c.getLsbD (31 - j)

/-- `TW16` of one word: the low byte, then the high byte (R63). -/
def wordBytes (w : Word) : List Byte := [w.extractLsb' 0 8, w.extractLsb' 8 8]

/-- `TBYTES` of a frame (R63). -/
def tbytes (ws : List Word) : List Byte := ws.flatMap wordBytes

/-- The word of bytes `b0` (lower index) and `b1`: `{b1, b0}` (R67). -/
def wordOfBytes (b0 b1 : Byte) : Word := (b1 ++ b0 : BitVec (8 + 8))

/-- The words of a byte stream, two bytes each, in order (R67). An odd last byte stands for no word. -/
def wordsOfBytes : List Byte → List Word
  | b0 :: b1 :: rest => wordOfBytes b0 b1 :: wordsOfBytes rest
  | _ => []

/-- `T = ceil(timeout_ms * 23587 / 5)` (R151). -/
def ticksOfMs (n : Nat) : Nat := (n * 23587 + 4) / 5

/-- The deadline in ticks of a `TRANSACT` request (R151). -/
def Timeout.deadline : Timeout → Nat
  | .absent => ticksOfMs Config.defaultTimeoutMs
  | .ms n => ticksOfMs n
  | .ticks n => n

end Sys2Proof.Machine
end

