-- ==== Sys2Proof/Machine/Flags.lean ====
section
/-!
DEFINITION. Parity, the flags, and the host-visible registers (R20 to R24, R90).
-/

namespace Sys2Proof.Machine

/-- `PCNT` run over bits: "incremented once per 1-bit" (R10, R90). -/
def countOnes (bits : List Bool) (pcnt : BitVec 4) : BitVec 4 :=
  bits.foldl (fun n b => if b then n + 1 else n) pcnt

/-- `PCNT` as the operations `PARITY`, `WENC` and `WDEC` leave it: set to 0, then run over the payload. -/
def pcntOf (d : Payload) : BitVec 4 := countOnes (payloadBits d) 0

/-- The odd-parity bit `p = ~PCNT[0]` of ten payload bits (R90). -/
def parityBit (d : Payload) : Bool := !(pcntOf d).getLsbD 0

/-- `min(PERRCNT + 1, 0xFFFF)` (R97, R132). -/
def saturatingInc (n : BitVec 16) : BitVec 16 := if n = 0xFFFF#16 then n else n + 1

/-- The code of an error kind in `OUTCOME[3:0]` (R200). -/
def ErrKind.code : ErrKind → BitVec 16
  | .invalidInput => 1
  | .invalidFrame => 2
  | .receiveTimeout => 3
  | .interfaceError => 4
  | .fatal => 5

/-- `TX_ACTIVE` (R20), also the signal `tx_active` (R29). -/
def State.txActive (s : State) : Bool := s.tx.txst != .idle

/-- `RX_ACTIVE` (R20). -/
def State.rxActive (s : State) : Bool := s.rx.rxst != .off

/-- `RX_STALL` (R20). -/
def State.rxStall (s : State) : Bool := s.rx.rxst == .stall

/-- `PERR` (R20). -/
def State.perr (s : State) : Bool := s.perrcnt != 0

/-- The code of `TST` in `STATUS[2:0]` (R22). -/
def TState.code : TState → BitVec 3
  | .idle => 0
  | .armed => 1
  | .inFlight => 2
  | .completed => 3
  | .timedOut => 4
  | .halted => 5

/-- `STATUS` (R22): bits 15 to 9 zero, then `XFER_BUSY`, `PERR`, `RX_STALL`, `TX_DONE`, `RX_ACTIVE`,
`TX_ACTIVE`, and `TST` in bits 2 to 0. -/
def State.status (s : State) : BitVec 16 :=
  (0#7 ++ BitVec.ofBool s.xferBusy ++ BitVec.ofBool s.perr ++ BitVec.ofBool s.rxStall ++
    BitVec.ofBool s.tx.txDone ++ BitVec.ofBool s.rxActive ++ BitVec.ofBool s.txActive ++
    s.tst.code : BitVec (7 + 1 + 1 + 1 + 1 + 1 + 1 + 3))

/-- The host's read of a register by number (spec/10_state.md section 4): 7 and above read 0. -/
def State.register (s : State) (number : Nat) : Nat :=
  match number with
  | 0 => s.status.toNat
  | 1 => s.outcome.toNat
  | 2 => s.timeout
  | 3 => s.timer
  | 4 => s.tx.txcnt.toNat
  | 5 => s.rx.rxwp
  | 6 => s.perrcnt.toNat
  | _ => 0

end Sys2Proof.Machine
end

