-- ==== Sys2Proof/Machine/Ops.lean ====
section
/-!
DEFINITION. The shared operations: access to the buffers (R40), and the end of an operation with a value or
with an error (R23, R200, R206).
-/

namespace Sys2Proof.Machine

/-- `MemRead(B, i)` (R40). A slot the list does not name reads 0: the clear value of R153, and what the model
names for the unspecified reset content (DESIGN CHOICE, unsafe, log entry 5). -/
def Memory.read {w : Nat} : SlotMem w → Nat → BitVec w
  | [], _ => 0
  | (k, x) :: m, i => if k = i then x else Memory.read m i

/-- `MemWrite(B, i, v)` (R40), keeping the canonical form. -/
def Memory.write {w : Nat} : SlotMem w → Nat → BitVec w → SlotMem w
  | [], i, v => if v = 0 then [] else [(i, v)]
  | (k, x) :: m, i, v =>
    if i < k then (if v = 0 then (k, x) :: m else (i, v) :: (k, x) :: m)
    else if i = k then (if v = 0 then m else (i, v) :: m)
    else (k, x) :: Memory.write m i v

/-- Every index is at least `lo`, indices rise strictly, and no listed slot holds 0. -/
def Memory.wfFrom {w : Nat} (lo : Nat) : SlotMem w → Bool
  | [] => true
  | (k, x) :: m => decide (lo ≤ k) && x != 0 && Memory.wfFrom (k + 1) m

/-- The canonical form of a buffer. -/
def Memory.wf {w : Nat} (m : SlotMem w) : Bool := Memory.wfFrom 0 m

/-- Every slot 0 (R153). -/
def Memory.cleared {w : Nat} : SlotMem w := []

/-- `MemWrite(B, i + k, v_k)` for the values of a list, `k` from 0 (R153). -/
def Memory.writeList {w : Nat} (m : SlotMem w) (i : Nat) : List (BitVec w) → SlotMem w
  | [] => m
  | v :: vs => Memory.writeList (Memory.write m i v) (i + 1) vs

/-- `MemRead(B, j)` for `j` from `i`, `n` slots. -/
def Memory.readList {w : Nat} (m : SlotMem w) (i : Nat) : Nat → List (BitVec w)
  | 0 => []
  | n + 1 => Memory.read m i :: Memory.readList m (i + 1) n

/-- The least index from `i`, among `n` slots, that holds 0xFFFF, if any (R156). -/
def Memory.findTerminator (m : SlotMem 16) (i : Nat) : Nat → Option Nat
  | 0 => none
  | n + 1 => if Memory.read m i = terminator then some i else Memory.findTerminator m (i + 1) n

/-- Hand a response to the host (R30). -/
def State.reply (s : State) (r : Response) : State := { s with results := s.results ++ [r] }

/-- An operation ends in success: `OUTCOME` is 0 and the value goes to the host (R23, R30). -/
def State.endOk (s : State) (op : BitVec 4) (v : OpValue) : State :=
  { s with outcome := 0, results := s.results ++ [.ok op v] }

/-- `raise`: an operation ends with an error. "The CFC records the code in OUTCOME and nothing else"
(R202, R206), and the host gets the kind (R207). There is no vector, no saved context and no return
(R208, spec/60 preamble). -/
def State.raiseError (s : State) (op : BitVec 4) (k : ErrKind) : State :=
  { s with outcome := k.code, results := s.results ++ [.error op k] }

end Sys2Proof.Machine
end

