-- ==== Sys2Proof/Machine/WordCodec.lean ====
section
/-!
DEFINITION. The Word Codec: `PARITY`, `WENC`, `WDEC` (spec/40_word_codec.md).
-/

namespace Sys2Proof.Machine

/-- The 24 chips of an encoded payload: start marker, ten pairs, parity pair (R61, R92). -/
def wordPattern (d : Payload) : List Chip :=
  [false, true] ++ (payloadBits d).flatMap pair ++ pair (parityBit d)

/-- `WENC v` as a function (R92). -/
def wencWord (v : Word) : Container := leftPack (wordPattern (payload v))

/-- The payload `WDEC` recovers: the second chips of the ten payload pairs, most significant first
(R96, R98). -/
def wdecPayload (c : Container) : Payload :=
  BitVec.ofNat 10 (bitsToNat ((List.range 10).map fun j => (chips24 c).getD (3 + 2 * j) false))

/-- `parity_ok` of `WDEC`: the second chip of the trailing pair against the parity of the recovered bits
(R96). -/
def wdecParityOk (c : Container) : Bool :=
  (chips24 c).getD 23 false == parityBit (wdecPayload c)

/-- Count a parity mismatch in `PERRCNT`, saturating (R21, R97, R132). -/
def State.countMismatch (s : State) (mismatch : Bool) : State :=
  { s with perrcnt := if mismatch then saturatingInc s.perrcnt else s.perrcnt }

/-- `PARITY v -> p` (R90). -/
def execParity (v : Word) (s : State) : Host.Outcome State Fault Refusal :=
  .next (({ s with pcnt := pcntOf (payload v) } : State).endOk 0x1#4 (.bit (parityBit (payload v))))

/-- `WENC v -> c` (R92). -/
def execWenc (v : Word) (s : State) : Host.Outcome State Fault Refusal :=
  .next (({ s with pcnt := pcntOf (payload v) } : State).endOk 0x2#4 (.container (wencWord v)))

/-- `WDEC c -> (v, parity_ok)` (R96, R97). -/
def execWdec (c : Container) (s : State) : Host.Outcome State Fault Refusal :=
  .next ((({ s with pcnt := pcntOf (wdecPayload c) } : State).countMismatch
      (!wdecParityOk c)).endOk 0x3#4
    (.decoded (wordOfPayload (wdecPayload c)) (wdecParityOk c)))

end Sys2Proof.Machine
end

