-- ==== Sys2Proof/Machine/Receiver.lean ====
section
/-!
DEFINITION. The receiver of the Frame Signal Engine as a state machine: the frame sync detector, the
end-marker detector, the word store and the terminator store (R121 to R134).
-/

namespace Sys2Proof.Machine

/-- `rx_start` (spec/41_frame_signal.md section 2.1). -/
def RxUnit.begin (rx : RxUnit) : RxUnit := { rx with rxst := .quiet, rxnb := 0, rxsr := 0 }

/-- `rx_stop` (spec/41_frame_signal.md section 2.1): a partly received word is dropped. -/
def RxUnit.halt (rx : RxUnit) : RxUnit := { rx with rxst := .off }

/-- The payload in `RXSR[10:1]` (R14, R131). -/
def RxUnit.shiftedPayload (rx : RxUnit) : Payload := rx.rxsr.extractLsb' 1 10

/-- `MemWrite(RXBUF, RXWP, v); RXWP <- RXWP + 1`, then `RXST <- next`; or `RX_STALL` when the buffer is full
(R131, R133, R134). -/
def RxUnit.store (slots : Nat) (v : Word) (next : RxState) (rx : RxUnit) : RxUnit :=
  if rx.rxwp < slots then
    { rx with rxbuf := Memory.write rx.rxbuf rx.rxwp v, rxwp := rx.rxwp + 1, rxst := next }
  else { rx with rxst := .stall }

/-- The word store (R131). -/
def RxUnit.wordStore (slots : Nat) (rx : RxUnit) : RxUnit :=
  RxUnit.store slots (wordOfPayload rx.shiftedPayload) .wsA rx

/-- Whether the parity check of a word store counts a mismatch (R131, R132): only a word that fits is
checked. -/
def RxUnit.mismatch (slots : Nat) (rx : RxUnit) : Bool :=
  decide (rx.rxwp < slots) && (rx.rxsr.getLsbD 0 != parityBit rx.shiftedPayload)

/-- The terminator store (R133). -/
def RxUnit.terminatorStore (slots : Nat) (rx : RxUnit) : RxUnit :=
  RxUnit.store slots terminator .quiet rx

/-- `RXSR <- {RXSR[9:0], c}; RXNB <- RXNB + 1` (R128). -/
def RxUnit.shiftIn (c : Chip) (rx : RxUnit) : RxUnit :=
  { rx with
    rxsr := (rx.rxsr.extractLsb' 0 10 ++ BitVec.ofBool c : BitVec (10 + 1))
    rxnb := rx.rxnb + 1 }

/-- Tick in `RX_WS_B`, the end-marker detector (R127). -/
def RxUnit.slotSecond (slots : Nat) (c : Chip) (rx : RxUnit) : RxUnit :=
  if !rx.rxa && c then { rx with rxsr := 0, rxnb := 0, rxst := .bitA }
  else RxUnit.terminatorStore slots rx

/-- Tick in `RX_BIT_B` (R128): the receiver after it, and whether a parity mismatch was counted. -/
def RxUnit.bitSecond (slots : Nat) (c : Chip) (rx : RxUnit) : RxUnit × Bool :=
  let next := RxUnit.shiftIn c rx
  if next.rxnb = 11 then (RxUnit.wordStore slots next, RxUnit.mismatch slots next)
  else ({ next with rxst := .bitA }, false)

/-- The receiver consumes one chip (R121 to R128); in `RX_OFF` and `RX_STALL` it consumes none. The Boolean
says whether a parity mismatch was counted (R132). -/
def RxUnit.tick (slots : Nat) (c : Chip) (rx : RxUnit) : RxUnit × Bool :=
  match rx.rxst with
  | .off => (rx, false)
  | .stall => (rx, false)
  | .quiet => (if c then rx else { rx with rxst := .arm }, false)
  | .arm => (if c then { rx with rxst := .high } else rx, false)
  | .high => (if c then rx else { rx with rxst := .z }, false)
  | .z => ({ rx with rxst := if c then .high else .p1 }, false)
  | .p1 => ({ rx with rxst := if c then .p2 else .arm }, false)
  | .p2 => ({ rx with rxst := if c then .p3 else .z }, false)
  | .p3 => ({ rx with rxst := if c then .wsA else .z }, false)
  | .wsA => ({ rx with rxa := c, rxst := .wsB }, false)
  | .wsB => (RxUnit.slotSecond slots c rx, false)
  | .bitA => ({ rx with rxst := .bitB }, false)
  | .bitB => RxUnit.bitSecond slots c rx

/-- The receiver consumes chips in order; the number counts parity mismatches (R120). -/
def RxUnit.run (slots : Nat) (rx : RxUnit) : List Chip → RxUnit × Nat
  | [] => (rx, 0)
  | c :: l =>
    let first := RxUnit.tick slots c rx
    let rest := RxUnit.run slots first.1 l
    (rest.1, first.2.toNat + rest.2)

/-- The receiver `FRX` starts from: in `RX_QUIET` with an empty buffer (R120). -/
def RxUnit.fresh : RxUnit := RxUnit.begin RxUnit.reset

/-- The values the receiver has stored, in order from slot 0. -/
def RxUnit.stored (rx : RxUnit) : List Word := Memory.readList rx.rxbuf 0 rx.rxwp

end Sys2Proof.Machine
end

