-- ==== Sys2Proof/Machine/Transmitter.lean ====
section
/-!
DEFINITION. The transmitter of the Frame Signal Engine as a state machine (R113 to R117) and the frame it
sends (R62, R110).
-/

namespace Sys2Proof.Machine

open Sys2Proof.Config (Params)

/-- The chips of the words of a frame, back to back (R62, R110). -/
def wordChips (ws : List Word) : List Chip := ws.flatMap fun w => chips24 (wencWord w)

/-- `FTX(W)` as a function (R110). -/
def frameChips (p : Params) (ws : List Word) : List Chip :=
  Config.syncPattern ++ Config.startPattern ++ wordChips ws ++ p.endPattern

/-- What one tick of the transmitter can be: the unit after the tick, or an access outside its ranges. -/
inductive TxTick where
  | ok (tx : TxUnit)
  | fault (f : Fault)
deriving DecidableEq, Repr

/-- `tx_start` (R113). -/
def TxUnit.begin (tx : TxUnit) : TxUnit :=
  { tx with txst := .sync, txpos := 0, txidx := 0, txDone := false }

/-- `tx_stop` (R117). -/
def TxUnit.halt (tx : TxUnit) : TxUnit := { tx with txst := .idle, lineOut := false }

/-- `TXSR <- MemRead(TXBUF, i)` on entering or going on in `TX_WORD` (R114, R115). -/
def TxUnit.load (p : Params) (tx : TxUnit) (i : BitVec 16) : TxTick :=
  if i.toNat < p.txCapacity then
    .ok { tx with txst := .word, txpos := 0, txidx := i, txsr := Memory.read tx.txbuf i.toNat }
  else .fault (.txbufSlotAbsent i.toNat)

/-- Tick in `TX_SYNC` (R114). -/
def TxUnit.tickSync (tx : TxUnit) : TxTick :=
  match Config.syncPattern[tx.txpos.toNat]? with
  | none => .fault .txposOutsideSegment
  | some c =>
    if tx.txpos = 9 then .ok { tx with lineOut := c, txst := .start, txpos := 0 }
    else .ok { tx with lineOut := c, txpos := tx.txpos + 1 }

/-- Tick in `TX_START` (R114). -/
def TxUnit.tickStart (p : Params) (tx : TxUnit) : TxTick :=
  match Config.startPattern[tx.txpos.toNat]? with
  | none => .fault .txposOutsideSegment
  | some c =>
    if tx.txpos = 4 then TxUnit.load p { tx with lineOut := c } 0
    else .ok { tx with lineOut := c, txpos := tx.txpos + 1 }

/-- Tick in `TX_WORD` (R115). -/
def TxUnit.tickWord (p : Params) (tx : TxUnit) : TxTick :=
  let shifted := { tx with lineOut := tx.txsr.getLsbD 31, txsr := tx.txsr <<< 1 }
  if tx.txpos.toNat < 23 then .ok { shifted with txpos := tx.txpos + 1 }
  else if tx.txidx.toNat < tx.txcnt.toNat then TxUnit.load p shifted (tx.txidx + 1)
  else .ok { shifted with txst := .trailer, txpos := 0 }

/-- Tick in `TX_END` (R116). -/
def TxUnit.tickTrailer (p : Params) (tx : TxUnit) : TxTick :=
  match p.endPattern[tx.txpos.toNat]? with
  | none => .fault .txposOutsideSegment
  | some c =>
    if tx.txpos.toNat + 1 = p.endPattern.length then
      .ok { tx with lineOut := c, txst := .idle, txDone := true }
    else .ok { tx with lineOut := c, txpos := tx.txpos + 1 }

/-- One tick of the transmitter (R113 to R116). -/
def TxUnit.tick (p : Params) (tx : TxUnit) : TxTick :=
  match tx.txst with
  | .idle => .ok { tx with lineOut := false }
  | .sync => TxUnit.tickSync tx
  | .start => TxUnit.tickStart p tx
  | .word => TxUnit.tickWord p tx
  | .trailer => TxUnit.tickTrailer p tx

/-- `n` ticks of the transmitter (R118). -/
def TxUnit.after (p : Params) (tx : TxUnit) : Nat → TxTick
  | 0 => .ok tx
  | n + 1 =>
    match TxUnit.tick p tx with
    | .ok tx' => TxUnit.after p tx' n
    | .fault f => .fault f

end Sys2Proof.Machine
end

