-- ==== Sys2Proof/Machine/FrameSignal.lean ====
section
/-!
DEFINITION. The host operations `FTX` and `FRX` (R110, R111, R120): pure, so `PCNT`, `PERRCNT` and the two
units are left alone (R120, D45; log entry 26).
-/

namespace Sys2Proof.Machine

/-- `FTX W -> chip stream` (R110, R111). -/
def execFtx (words : List Word) (s : State) : Host.Outcome State Fault Refusal :=
  if words.length = 0 ∨ s.par.txCapacity < words.length then
    .next (s.raiseError 0x4#4 .invalidInput)
  else .next (s.endOk 0x4#4 (.chips (frameChips s.par words)))

/-- `FRX L -> (words, mismatches)` (R120). -/
def execFrx (chips : List Chip) (s : State) : Host.Outcome State Fault Refusal :=
  .next (s.endOk 0x5#4
    (.received (RxUnit.run s.par.rxSlots RxUnit.fresh chips).1.stored
      (RxUnit.run s.par.rxSlots RxUnit.fresh chips).2))

end Sys2Proof.Machine
end

