-- ==== Sys2Proof/Machine/Engine.lean ====
section
/-!
DEFINITION. The Transaction Engine (spec/42_transaction.md): arm, start, the tick, the poll, teardown, return,
and the fatal fault.
-/

namespace Sys2Proof.Machine

open Sys2Proof.Config (Params)

/-- Checks (a) to (d) of R152: whether a request passes them. -/
def requestOk (p : Params) (r : TransactReq) : Bool :=
  decide (r.bytes.length % 2 = 0) &&
  decide (r.bytes.length / 2 ≠ 0) &&
  decide (r.bytes.length / 2 ≤ p.txCapacity) &&
  decide (r.deadline < 2 ^ p.timerBits)

/-- Transition `Idle → Armed` (R153). The words are encoded in order into `TXBUF`; slots past the frame keep
what they held. Which value the encoder leaves in `PCNT` is a free value (log entry 6). -/
def State.arm (s : State) (r : TransactReq) : State :=
  { s with
    tst := .armed
    pcnt := BitVec.ofNat 4 (Config.freePcnt s.freeCount).val
    freeCount := s.freeCount + 1
    rx := { s.rx with rxbuf := Memory.cleared, rxwp := 0 }
    tx := { s.tx with
      txbuf := Memory.writeList s.tx.txbuf 0 ((wordsOfBytes r.bytes).map wencWord)
      txcnt := BitVec.ofNat 16 (r.bytes.length / 2 - 1)
      txDone := false }
    timeout := r.deadline }

/-- R153 with the range of `TXBUF` (R25, R40): a frame that does not fit is an access to an absent slot. A
request that passed R152 always fits. -/
def armRequest (r : TransactReq) (s : State) : Host.Outcome State Fault Refusal :=
  if r.bytes.length / 2 ≤ s.par.txCapacity then .next (s.arm r)
  else .fault (.txbufSlotAbsent s.par.txCapacity)

/-- Transition `Armed → InFlight` (R154): both units start in the same tick. -/
def State.start (s : State) : State :=
  { s with tst := .inFlight, timer := 0, rx := s.rx.begin, tx := s.tx.begin }

/-- Teardown stops both units (R161). -/
def State.stopUnits (s : State) : State := { s with tx := s.tx.halt, rx := s.rx.halt }

/-- Serve the oldest held request, if there is one and `TST = Idle` (R164; log entry 11). -/
def serveHeld (s : State) : Host.Outcome State Fault Refusal :=
  match s.held with
  | [] => .next s
  | r :: rest => armRequest r { s with held := rest }

/-- "Return to Idle only after teardown completes" (R163): the outcome is written and the result handed to
the host; a `TimedOut` transaction has no bytes (R158). -/
def State.giveBack (s : State) : State :=
  if s.tst = .completed then
    ({ s with tst := .idle, xferBusy := false, captured := [] } : State).endOk 0x6#4
      (.bytes s.captured)
  else
    ({ s with tst := .idle, xferBusy := false, captured := [] } : State).raiseError 0x6#4
      .receiveTimeout

/-- The fatal fault (R162). No frame is returned, even from `Completed`. The requests held at that moment end
with `Fatal` as well: R164 serves a request in `Halted` by R162 (DEDUCED, log entry 10). -/
def State.goFatal (s : State) : State :=
  { s with
    tst := .halted
    captured := []
    held := []
    outcome := ErrKind.fatal.code
    results := s.results ++ .error 0x6#4 .fatal :: s.held.map fun _ => .error 0x6#4 .fatal }

/-- The acknowledge is withheld in a tick: what `XFER_BUSY` shows is a free value (log entry 7). -/
def State.ackWithheld (s : State) : State :=
  { s with
    xferBusy := Config.freeXferBusy s.freeCount
    freeCount := s.freeCount + 1 }

/-- One tick of teardown: "wait, at most ABORT_ACK_TICKS, for the acknowledge" (R161; log entry 8). -/
def teardownTick (abortOk : Bool) (s : State) : Host.Outcome State Fault Refusal :=
  if abortOk then serveHeld s.giveBack
  else if s.ackWait < s.par.abortAckTicks then
    .next { s.ackWithheld with ackWait := s.ackWait + 1 }
  else .next s.ackWithheld.goFatal

/-- The exit poll has found how the transaction ends (R156): the result is captured (R157), teardown begins in
the same tick (R161). -/
def State.exitPoll (s : State) (tst : TState) (captured : List Byte) : State :=
  ({ s with tst := tst, captured := captured, ackWait := 0 } : State).stopUnits

/-- Steps (2) to (4) of a tick in `InFlight` (R155): transmitter, receiver, `TIMER`. -/
def lineTick (lineIn : Chip) (s : State) : Host.Outcome State Fault Refusal :=
  match TxUnit.tick s.par s.tx with
  | .fault f => .fault f
  | .ok tx =>
    .next (({ s with
      tx := tx
      rx := (RxUnit.tick s.par.rxSlots lineIn s.rx).1
      timer := s.timer + 1 } : State).countMismatch (RxUnit.tick s.par.rxSlots lineIn s.rx).2)

/-- What one poll decides (R156). -/
inductive Poll where
  | completed (slot : Nat)
  | timedOut
  | stay
deriving DecidableEq, Repr

/-- One poll (R156): the terminator test comes first. -/
def State.poll (s : State) : Poll :=
  match Memory.findTerminator s.rx.rxbuf 0 s.par.rxSlots with
  | some j => .completed j
  | none => if s.timeout ≤ s.timer then .timedOut else .stay

/-- The result bytes of a poll that found the terminator in slot `j` (R157). -/
def State.resultBytes (s : State) (j : Nat) : List Byte :=
  tbytes (Memory.readList s.rx.rxbuf 0 j)

/-- One tick while `TST = InFlight` (R155): the poll if the tick is a multiple of `POLL_TICKS`, then the line;
if the poll leaves `InFlight`, the rest of the tick does not happen. -/
def inFlightTick (lineIn : Chip) (abortOk : Bool) (s : State) :
    Host.Outcome State Fault Refusal :=
  if s.timer % s.par.pollTicks = 0 then
    match s.poll with
    | .completed j => teardownTick abortOk (s.exitPoll .completed (s.resultBytes j))
    | .timedOut => teardownTick abortOk (s.exitPoll .timedOut [])
    | .stay => lineTick lineIn s
  else lineTick lineIn s

/-- A tick in which no transaction is in flight: the line is 0 and no chip is consumed (R113, R161, R213). -/
def State.quietTick (s : State) : State := { s with tx := { s.tx with lineOut := false } }

/-- One tick of the block (R47, R154, R155, R161). `Armed` lasts until the next tick (log entry 9). -/
def tick (lineIn : Chip) (abortOk : Bool) (s : State) : Host.Outcome State Fault Refusal :=
  match s.tst with
  | .idle => .next s.quietTick
  | .halted => .next s.quietTick
  | .armed => inFlightTick lineIn abortOk s.start
  | .inFlight => inFlightTick lineIn abortOk s
  | .completed => teardownTick abortOk s.quietTick
  | .timedOut => teardownTick abortOk s.quietTick

end Sys2Proof.Machine
end

