-- ==== Sys2Proof/Machine/Transaction.lean ====
section
/-!
DEFINITION. The operation `TRANSACT` as the host issues it (R150, R152, R162, R164). What follows its
acceptance happens in the ticks of Engine.lean.
-/

namespace Sys2Proof.Machine

/-- `TRANSACT B, timeout` (R150), in the order of R205: the operand checks, then `Halted`, then the wait for
`Idle`, then the arm. -/
def execTransact (bytes : List Byte) (timeout : Timeout) (s : State) :
    Host.Outcome State Fault Refusal :=
  let r : TransactReq := { bytes := bytes, deadline := Timeout.deadline timeout }
  if !requestOk s.par r then .next (s.raiseError 0x6#4 .invalidInput)
  else if s.tst = .halted then .next (s.raiseError 0x6#4 .fatal)
  else if s.tst = .idle then armRequest r s
  else .next { s with held := s.held ++ [r] }

end Sys2Proof.Machine
end

