-- ==== Sys2Proof/Machine/Transport.lean ====
section
/-!
DEFINITION. The Frame Transport Codec: `TEXP`, `TENC`, `TDEC`, `TCMP` (spec/43_transport.md).
-/

namespace Sys2Proof.Machine

/-- Whether a finite `EXPAND_MAX_WORDS` refuses an expansion to `n` words (R180). -/
def exceedsExpandMax (limit : Option Nat) (n : Int) : Bool :=
  match limit with
  | none => false
  | some m => decide ((m : Int) < n)

/-- `TEXP S, (count, offset)` as a function: `none` is `InvalidInput` (R180, R181). A finite `EXPAND_MAX_WORDS`
refuses a longer result also when `TCMP` made the sequence, and never looks at a sequence without a descriptor or
with count 0; so `TENC (TCMP W)` can be `InvalidInput` where `TENC W` is not. R196 and R192 except no such case;
R180's check is followed. DESIGN CHOICE, unsafe, log entry 33. -/
def expand (limit : Option Nat) (s : List Word) : Option RDesc → Option (List Word)
  | none => some s
  | some d =>
    if d.count < 0 then none
    else if d.count = 0 then some s
    else if d.offset < 0 ∨ (s.length : Int) ≤ d.offset then none
    else if exceedsExpandMax limit (d.offset + d.count * ((s.length : Int) - d.offset)) then none
    else some (s.take d.offset.toNat ++
      (List.replicate d.count.toNat (s.drop d.offset.toNat)).flatten)

/-- The length of the run of its first element a list begins with. -/
def headRun : List Word → Nat
  | [] => 0
  | w :: rest => 1 + (rest.takeWhile (· == w)).length

/-- `r` of R192: the length of the run of the last word at the tail. -/
def tailRun (ws : List Word) : Nat := headRun ws.reverse

/-- `TCMP W` as a function (R192). -/
def compress (ws : List Word) : List Word × RDesc :=
  if 2 ≤ tailRun ws then
    (ws.take (ws.length - tailRun ws) ++ ws.getLast?.toList,
      { count := tailRun ws, offset := (ws.length - tailRun ws : Nat) })
  else (ws, { count := 0, offset := 0 })

/-- `TEXP S, (count, offset) -> F` (R180, R181). -/
def execTexp (words : List Word) (desc : Option RDesc) (s : State) :
    Host.Outcome State Fault Refusal :=
  match expand s.par.expandMaxWords words desc with
  | none => .next (s.raiseError 0x7#4 .invalidInput)
  | some f => .next (s.endOk 0x7#4 (.words f))

/-- `TENC S, (count, offset) -> bytes` (R184). -/
def execTenc (words : List Word) (desc : Option RDesc) (s : State) :
    Host.Outcome State Fault Refusal :=
  match expand s.par.expandMaxWords words desc with
  | none => .next (s.raiseError 0x8#4 .invalidInput)
  | some f => .next (s.endOk 0x8#4 (.bytes (tbytes f)))

/-- `TDEC B -> words` (R188). -/
def execTdec (bytes : List Byte) (s : State) : Host.Outcome State Fault Refusal :=
  if bytes.length % 2 = 1 then .next (s.raiseError 0x9#4 .invalidFrame)
  else .next (s.endOk 0x9#4 (.words (wordsOfBytes bytes)))

/-- `TCMP W -> S, (count, offset)` (R192). -/
def execTcmp (words : List Word) (s : State) : Host.Outcome State Fault Refusal :=
  .next (s.endOk 0xA#4 (.compressed (compress words).1 (compress words).2))

end Sys2Proof.Machine
end

