-- ==== Sys2Proof/Machine/Dispatch.lean ====
section
/-! DEFINITION. The meaning of each operation of R80, one arm per constructor of Instr. -/

namespace Sys2Proof.Machine

def exec (i : Instr) (s : State) : Host.Outcome State Fault Refusal :=
  match i with
  | .parity v => Sys2Proof.Machine.execParity v s
  | .wenc v => Sys2Proof.Machine.execWenc v s
  | .wdec c => Sys2Proof.Machine.execWdec c s
  | .ftx words => Sys2Proof.Machine.execFtx words s
  | .frx chips => Sys2Proof.Machine.execFrx chips s
  | .transact bytes timeout => Sys2Proof.Machine.execTransact bytes timeout s
  | .texp words desc => Sys2Proof.Machine.execTexp words desc s
  | .tenc words desc => Sys2Proof.Machine.execTenc words desc s
  | .tdec bytes => Sys2Proof.Machine.execTdec bytes s
  | .tcmp words => Sys2Proof.Machine.execTcmp words s

end Sys2Proof.Machine
end

