-- ==== Sys2Proof/Machine/Inputs.lean ====
section
/-!
DEFINITION. What one step does with the next input: a request, a tick, a register access, or reset.
-/

namespace Sys2Proof.Machine

/-- Accept a request (R30, R81): run the operation it decodes to, or end it with `InvalidInput` before any
operand is looked at (R205 (1)). -/
def acceptRequest (r : OpReq) (s : State) : Host.Outcome State Fault Refusal :=
  match decode r with
  | .instr i => exec i s
  | .rejected (.reservedOp op) => .next (s.raiseError op .invalidInput)

/-- `rst` (R240, R241): every piece of state takes its reset value, the transaction under way and the held
requests are dropped without an outcome. What the host has received, what is still to come and the choice of
free values are outside the block and stay (log entry 14). -/
def State.rst (s : State) : State :=
  { State.resetWith s.par with
    inputs := s.inputs
    results := s.results
    freeCount := s.freeCount }

/-- One input takes effect. -/
def applyInput (x : Input) (s : State) : Host.Outcome State Fault Refusal :=
  match x with
  | .tick lineIn abortOk => tick lineIn abortOk s
  | .request r => acceptRequest r s
  | .readReg number => .next (s.reply (.register number (s.register number)))
  | .writeReg _ _ => .next s
  | .rst => .next s.rst

/-- The next input, or, when none is listed, a tick whose chip and acknowledge are free (R242; log entry 4). -/
def takeInput (s : State) : Host.Outcome State Fault Refusal :=
  match s.inputs with
  | [] =>
    tick (Config.envLineIn s.freeCount) (Config.envAbortOk s.freeCount)
      { s with freeCount := s.freeCount + 1 }
  | x :: rest => applyInput x { s with inputs := rest }

/-- A build whose parameters break R2's constraints is refused (U5 of spec/93); otherwise the next input takes
effect. -/
def runStep (s : State) : Host.Outcome State Fault Refusal :=
  if s.par.valid then takeInput s else .refused .configurationInvalid

end Sys2Proof.Machine
end

