-- ==== Sys2Proof/Machine/Step.lean ====
section
/-! DEFINITION. One step of the machine, and the placing of a request where the next step takes it. -/

namespace Sys2Proof.Machine

/-- One step: the next input of the host or the environment takes effect. -/
def step (s : State) : Host.Outcome State Fault Refusal := runStep s

/-- `s` with the request of the table's word `w` as the next thing on the request channel, so that the very
next step accepts it (log entry 19). -/
def State.withFetchWord (s : State) (nbits w : Nat) : State :=
  { s with inputs := .request (OpReq.ofTableWord nbits w) :: s.inputs }

end Sys2Proof.Machine
end

