-- ==== Sys2Proof/Machine/TransactFunction.lean ====
section
/-!
DEFINITION. `TRANSACT` as a function of the whole chip stream, for a reader who does not want to step ticks
(R166). The step function does not use it; statements compare the two.
-/

namespace Sys2Proof.Machine

open Sys2Proof.Config (Params)

/-- The receiver, and the mismatches it counted, after the chips `L[0..t)` of a transaction (R48, R166). -/
def rxAfter (p : Params) (line : Nat → Chip) (t : Nat) : RxUnit × Nat :=
  RxUnit.run p.rxSlots RxUnit.fresh ((List.range t).map line)

/-- The slot of the first terminator in `rxbuf(t)`, if any (R156, R166). -/
def terminatorAt (p : Params) (line : Nat → Chip) (t : Nat) : Option Nat :=
  Memory.findTerminator (rxAfter p line t).1.rxbuf 0 p.rxSlots

/-- Whether poll `k` leaves `InFlight` (R156). -/
def pollExits (p : Params) (line : Nat → Chip) (deadline k : Nat) : Bool :=
  (terminatorAt p line (k * p.pollTicks)).isSome || decide (deadline ≤ k * p.pollTicks)

/-- The least `k` from the given one that leaves `InFlight`, looking at most `fuel` polls ahead. -/
def exitPollFrom (p : Params) (line : Nat → Chip) (deadline : Nat) : Nat → Nat → Nat
  | 0, k => k
  | fuel + 1, k =>
    if pollExits p line deadline k then k else exitPollFrom p line deadline fuel (k + 1)

/-- `k*` of R156. Poll number `T` is at a tick not before `T`, because `POLL_TICKS >= 1`. -/
def exitPollIndex (p : Params) (line : Nat → Chip) (deadline : Nat) : Nat :=
  exitPollFrom p line deadline deadline 0

/-- `t_exit` of R156. -/
def exitTick (p : Params) (line : Nat → Chip) (deadline : Nat) : Nat :=
  exitPollIndex p line deadline * p.pollTicks

/-- The outcome of `TRANSACT` from `Idle` (R166). -/
def transactFunction (p : Params) (bytes : List Byte) (timeout : Timeout) (line : Nat → Chip)
    (abortOk : Bool) : Response :=
  if !requestOk p { bytes := bytes, deadline := Timeout.deadline timeout } then
    .error 0x6#4 .invalidInput
  else if !abortOk then .error 0x6#4 .fatal
  else
    match terminatorAt p line (exitTick p line (Timeout.deadline timeout)) with
    | some j =>
      .ok 0x6#4 (.bytes (tbytes (Memory.readList
        (rxAfter p line (exitTick p line (Timeout.deadline timeout))).1.rxbuf 0 j)))
    | none => .error 0x6#4 .receiveTimeout

/-- `PERRCNT` after `n` mismatches more, saturating (R166). -/
def saturatingAdd (c : BitVec 16) (n : Nat) : BitVec 16 :=
  if c.toNat + n ≤ 0xFFFF then BitVec.ofNat 16 (c.toNat + n) else 0xFFFF#16

end Sys2Proof.Machine
end

