-- ==== Sys2Proof/Machine/Tunnel.lean ====
section
/-!
DEFINITION. The classification contract of the HTTP tunnel (R222 to R226): host-side functions, no part of the
machine's step.
-/

namespace Sys2Proof.Machine

/-- What a tunnel client gets back from the network. -/
inductive HttpReply where
  | response (status : Nat) (body : List Byte)
  | noResponse
  | connectionFailed
deriving DecidableEq, Repr

/-- What the client reports to its caller. `interfaceError` carries the status and body of the response when
there was one (R225). -/
inductive ClientOutcome where
  | frame (words : List Word)
  | failed (kind : ErrKind)
  | interfaceError (detail : Option (Nat × List Byte))
deriving DecidableEq, Repr

/-- The request of a tunnel client (R222). The destination field's name is not in the source (N16) and no rule
of the block reads it. -/
structure TunnelRequest where
  body : List Byte
  timeoutMs : Option Nat
  destination : Option (List Byte)
deriving DecidableEq, Repr

/-- The request for an outbound frame (R222): its body is the frame's transport encoding, the bytes of `TENC`
(R184). `none` when the descriptor is refused, for then `TENC` produces no byte (R181). -/
def TunnelRequest.ofFrame (expandMax : Option Nat) (frame : List Word) (desc : Option RDesc)
    (timeoutMs : Option Nat) (destination : Option (List Byte)) : Option TunnelRequest :=
  (expand expandMax frame desc).map fun f =>
    { body := tbytes f, timeoutMs := timeoutMs, destination := destination }

/-- The `TRANSACT` a server fronting the block issues for a tunnel request (R222). -/
def TunnelRequest.operation (r : TunnelRequest) : Instr :=
  .transact r.body (match r.timeoutMs with | none => .absent | some n => .ms n)

/-- The classification of a reply: 200 (R223), 408 (R224), any other status or a connection failure (R225), no
response within the deadline (R226). -/
def classify : HttpReply → ClientOutcome
  | .response status body =>
    if status = 200 then
      if body.length % 2 = 1 then .failed .invalidFrame else .frame (wordsOfBytes body)
    else if status = 408 then .failed .receiveTimeout
    else .interfaceError (some (status, body))
  | .noResponse => .failed .receiveTimeout
  | .connectionFailed => .interfaceError none

/-- The status a server gives for a result of the block (R226): 200 for a completed transaction, 408 for
`ReceiveTimeout`; the source gives no other (free value, log entry 21). -/
def serverStatus : Response → Nat
  | .ok _ _ => 200
  | .error _ .receiveTimeout => 408
  | .error _ kind => Config.openHttpStatus kind.code.toNat
  | .register _ value => Config.openHttpStatus value

/-- The body a server gives for a result of the block (R226): the result bytes of a completed transaction; the
source gives no other (free value, log entry 21). -/
def serverBody : Response → List Byte
  | .ok _ (.bytes b) => b
  | .ok _ _ => Config.openHttpBody 0
  | .error _ kind => Config.openHttpBody kind.code.toNat
  | .register _ value => Config.openHttpBody value

/-- The answer of a server that fronts the block (R226). -/
def serverReply (r : Response) : HttpReply := .response (serverStatus r) (serverBody r)

end Sys2Proof.Machine
end

