-- ==== Sys2Proof/Safety.lean ====
section
/-!
DEFINITION. What the rules promise of every state between two steps, and what a safe step is.
-/

namespace Sys2Proof.Machine

open Sys2Proof.Config (Params)

/-- The transmitter is inside the segment it drives, with the ranges of R13, and reads only slots that exist
(R40). -/
def TxUnit.positionOk (p : Params) (tx : TxUnit) : Prop :=
  match tx.txst with
  | .idle => True
  | .sync => tx.txpos.toNat ≤ 9 ∧ tx.txidx = 0 ∧ tx.txcnt.toNat < p.txCapacity
  | .start => tx.txpos.toNat ≤ 4 ∧ tx.txidx = 0 ∧ tx.txcnt.toNat < p.txCapacity
  | .word => tx.txpos.toNat ≤ 23 ∧ tx.txidx.toNat ≤ tx.txcnt.toNat ∧ tx.txcnt.toNat < p.txCapacity
  | .trailer =>
    tx.txpos.toNat < p.endPattern.length ∧ tx.txidx.toNat ≤ tx.txcnt.toNat ∧
      tx.txcnt.toNat < p.txCapacity

/-- `TXBUF` is in canonical form and lists only slots that exist (R25). -/
def TxUnit.bufferOk (p : Params) (tx : TxUnit) : Prop :=
  Memory.wf tx.txbuf = true ∧ ∀ e ∈ tx.txbuf, e.1 < p.txCapacity

/-- `RXBUF` is in canonical form; nothing is stored at or above `RXWP`, which is at most `RX_SLOTS` (R15, R49);
every stored value is the terminator or a payload (R43, R131, R133). -/
def RxUnit.bufferOk (p : Params) (rx : RxUnit) : Prop :=
  Memory.wf rx.rxbuf = true ∧ rx.rxwp ≤ p.rxSlots ∧
    ∀ e ∈ rx.rxbuf, e.1 < rx.rxwp ∧ (e.2 = terminator ∨ e.2.toNat ≤ 0x3FF)

/-- `RXNB` is in its range (R14), and below 11 while bits of a word are still to come (R128). -/
def RxUnit.countOk (rx : RxUnit) : Prop :=
  rx.rxnb.toNat ≤ 11 ∧ (rx.rxst = .bitA ∨ rx.rxst = .bitB → rx.rxnb.toNat ≤ 10)

/-- A byte stream `TRANSACT` may return: whole words of at most 0x03FF, at most `RX_FRAME_MAX` of them (R159). -/
def resultLegal (p : Params) (b : List Byte) : Prop :=
  b.length % 2 = 0 ∧ b.length ≤ 2 * p.rxFrameMax ∧ ∀ w ∈ wordsOfBytes b, w.toNat ≤ 0x3FF

/-- The latest tick of a transaction at which `InFlight` can be left (R156). -/
def lastPoll (p : Params) (deadline : Nat) : Nat :=
  (deadline + p.pollTicks - 1) / p.pollTicks * p.pollTicks

/-- What holds of the block between two steps. -/
structure State.Inv (s : State) : Prop where
  /-- The parameters meet R2. -/
  parameters : s.par.valid = true
  /-- `PCNT` ranges from 0 to 10 (R10). -/
  pcntRange : s.pcnt.toNat ≤ 10
  txBuffer : s.tx.bufferOk s.par
  rxBuffer : s.rx.bufferOk s.par
  rxCount : s.rx.countOk
  txPosition : s.tx.positionOk s.par
  /-- Outside `InFlight` both units are off and the line is 0 (R29, R161, R213). -/
  unitsOff : s.tst ≠ .inFlight →
    s.tx.txst = .idle ∧ s.rx.rxst = .off ∧ s.tx.lineOut = false
  /-- A frame that is armed fits `TXBUF` (R152). -/
  armedFits : s.tst = .armed → s.tx.txcnt.toNat < s.par.txCapacity
  /-- Arming clears the receive buffer (R153). -/
  armedClear : s.tst = .armed → s.rx.rxbuf = [] ∧ s.rx.rxwp = 0
  /-- `InFlight` is left in time (R156). -/
  timerBound : s.tst = .inFlight → s.timer ≤ lastPoll s.par s.timeout
  /-- Requests wait only while a transaction is under way (R164). -/
  heldBusy : s.held ≠ [] → s.tst ≠ .idle ∧ s.tst ≠ .halted
  /-- Every held request has passed the checks of R152. -/
  heldOk : ∀ r ∈ s.held, requestOk s.par r = true
  /-- `XFER_BUSY` is 0 unless the acknowledge is withheld (R20). -/
  transferIdle : s.xferBusy = true →
    s.tst = .completed ∨ s.tst = .timedOut ∨ s.tst = .halted
  /-- Teardown never waits longer than `ABORT_ACK_TICKS` (R161). -/
  ackBound : s.tst = .completed ∨ s.tst = .timedOut → s.ackWait ≤ s.par.abortAckTicks
  /-- `OUTCOME` holds a code that the block itself can raise (R200, R201). -/
  outcomeKnown : s.outcome = 0 ∨
    ∃ k : ErrKind, k ≠ .interfaceError ∧ s.outcome = k.code
  /-- A captured result is one `TRANSACT` may return (R159). -/
  capturedLegal : resultLegal s.par s.captured

/-- A step goes wrong when it stops. -/
def stops {σ φ ρ : Type} : Host.Outcome σ φ ρ → Prop
  | .next _ => False
  | .fault _ => True
  | .refused _ => True

/-! Terms the statements use. -/

/-- How many of a word's bits 9 to 0 are 1: `popcount(d)` of R90. -/
def payloadOnes (v : Word) : Nat := ((List.range 10).filter fun i => v.getLsbD i).length

/-- How many of the ten payload pairs of a container have a second chip 1 (R96, R61). -/
def containerOnes (c : Container) : Nat :=
  ((List.range 10).filter fun i => c.getLsbD (10 + 2 * i)).length

/-- The receiver looks for the start of a frame: `RX_QUIET` to `RX_P3` (R121 to R126). -/
def RxUnit.hunting (rx : RxUnit) : Prop :=
  rx.rxst = .quiet ∨ rx.rxst = .arm ∨ rx.rxst = .high ∨ rx.rxst = .z ∨
    rx.rxst = .p1 ∨ rx.rxst = .p2 ∨ rx.rxst = .p3

/-- `n` ticks that present the chips of `line` in order, each with the same acknowledge. -/
def lineTicks (line : Nat → Chip) (abortOk : Bool) (n : Nat) : List Input :=
  (List.range n).map fun i => .tick (line i) abortOk

/-- The least index of two neighbouring bytes 0xFF, if any: the byte-wise search of R43. -/
def byteSearch : List Byte → Option Nat
  | b0 :: b1 :: rest =>
    if b0 = 0xFF#8 ∧ b1 = 0xFF#8 then some 0 else (byteSearch (b1 :: rest)).map (· + 1)
  | _ => none

/-- `popcount` of a chip string. -/
def onesIn (l : List Chip) : Nat := (l.filter id).length

/-- `u` is `s` with the request `r` armed (R153): what the arm writes, and that it writes nothing else. `PCNT` and
the model's counter of free values are left open (log entry 6). -/
def ArmedBy (r : TransactReq) (s u : State) : Prop :=
  u = { s with
    tst := .armed
    timeout := r.deadline
    pcnt := u.pcnt
    freeCount := u.freeCount
    rx := { s.rx with rxbuf := u.rx.rxbuf, rxwp := 0 }
    tx := { s.tx with txbuf := u.tx.txbuf, txcnt := u.tx.txcnt, txDone := false } } ∧
  u.tx.txcnt.toNat + 1 = r.bytes.length / 2 ∧
  (∀ j, Memory.read u.rx.rxbuf j = 0) ∧
  (∀ i b0 b1, r.bytes[2 * i]? = some b0 → r.bytes[2 * i + 1]? = some b1 →
    Memory.read u.tx.txbuf i = wencWord (BitVec.ofNat 16 (b0.toNat + 256 * b1.toNat))) ∧
  ∀ i, r.bytes.length / 2 ≤ i → Memory.read u.tx.txbuf i = Memory.read s.tx.txbuf i

/-- `u` is the idle state `s` after the requests held in it were looked at: `s` itself when none is held, and
otherwise `s` with the one held longest armed (R164; that this happens in the same step is the model's choice,
log entry 11). -/
def ServedFrom (s u : State) : Prop :=
  match s.held with
  | [] => u = s
  | r :: rest => ArmedBy r { s with held := rest } u

/-- `s` as an acknowledged teardown leaves it before a held request is looked at: both units stopped, `OUTCOME`
the given code, one response given, `Idle` (R161, R163). -/
def State.returned (s : State) (code : BitVec 16) (response : Response) : State :=
  { s with
    tst := .idle
    xferBusy := false
    captured := []
    ackWait := 0
    outcome := code
    results := s.results ++ [response]
    tx := { s.tx with txst := .idle, lineOut := false }
    rx := { s.rx with rxst := .off } }

/-- `b` is the byte form of the first `j` slots of `RXBUF`, low byte first (R157). -/
def isResultOf (rx : RxUnit) (j : Nat) (b : List Byte) : Prop :=
  b.length = 2 * j ∧
    ∀ i, i < j →
      b[2 * i]? = some ((Memory.read rx.rxbuf i).extractLsb' 0 8) ∧
      b[2 * i + 1]? = some ((Memory.read rx.rxbuf i).extractLsb' 8 8)

/-- The operations of the two codecs and of the signal engine: all but `TRANSACT`. -/
def isCodecOperation : Instr → Bool
  | .transact _ _ => false
  | .parity _ => true
  | .wenc _ => true
  | .wdec _ => true
  | .ftx _ => true
  | .frx _ => true
  | .texp _ _ => true
  | .tenc _ _ => true
  | .tdec _ => true
  | .tcmp _ => true

end Sys2Proof.Machine
end

