-- ==== Sys2Proof/Certificates/Slice0/Obligations.lean ====
section
/-!
DEFINITION. The statements for the provers, from the numbered rules of spec/ (OBLIGATIONS.json lists them).
-/

open Sys2Proof Sys2Proof.Machine

/-! ## Requests, encoding, the step -/

/-- The step accepts the request at the head of the channel and runs the operation it decodes to, on the state
without that request (R30, R80; the list is the model's, log entry 1). -/
def Obligations.StepRunsDecodedRequest : Prop :=
  ∀ (s : State) (r : OpReq) (rest : List Input) (i : Instr),
    s.par.valid = true → s.inputs = .request r :: rest → decode r = .instr i →
    i.wellFormed = true →
    step s = exec i { s with inputs := rest }

/-- What a step does with every other input, and with none listed (the model's choice, log entries 1, 4, 20). -/
def Obligations.StepTakesOtherInputs : Prop :=
  ∀ s : State, s.par.valid = true →
    (∀ c a rest, s.inputs = .tick c a :: rest → step s = tick c a { s with inputs := rest }) ∧
    (∀ n rest, s.inputs = .readReg n :: rest →
      step s = .next { s with
        inputs := rest
        results := s.results ++ [.register n (s.register n)] }) ∧
    (∀ n v rest, s.inputs = .writeReg n v :: rest → step s = .next { s with inputs := rest }) ∧
    (s.inputs = [] →
      step s = tick (Config.envLineIn s.freeCount) (Config.envAbortOk s.freeCount)
        { s with freeCount := s.freeCount + 1 })

/-- R81: a reserved code ends at once with `InvalidInput` (code 1 in `OUTCOME`) and changes no other state,
whatever the operands are. -/
def Obligations.ReservedCodeEndsInvalidInput : Prop :=
  ∀ (s : State) (r : OpReq) (rest : List Input),
    s.par.valid = true → s.inputs = .request r :: rest → r.op = 0x0#4 ∨ 0xB ≤ r.op.toNat →
    step s = .next { s with
      inputs := rest
      outcome := 1
      results := s.results ++ [.error r.op .invalidInput] }

/-- Decoding an operation's request gives the operation, and every well-formed request is the request of
exactly the operation it decodes to (R80; the operand lanes are the model's, log entry 2). -/
def Obligations.DecodeEncodeAgree : Prop :=
  (∀ i : Instr, i.wellFormed = true → decode (encode i) = .instr i) ∧
  ∀ r : OpReq, r.wellFormed = true → ∃ i, decode r = .instr i ∧ encode i = r ∧ i.wellFormed = true

/-- The codes of the operation map of R80 and the reserved codes of R81, written out. -/
def Obligations.TableCodesDecode : Prop :=
  decodeTableWord 8 0x01 = some (.parity 0) ∧ decodeTableWord 8 0x02 = some (.wenc 0) ∧
  decodeTableWord 8 0x03 = some (.wdec 0) ∧ decodeTableWord 8 0x04 = some (.ftx []) ∧
  decodeTableWord 8 0x05 = some (.frx []) ∧
  decodeTableWord 8 0x06 = some (.transact [] .absent) ∧
  decodeTableWord 8 0x07 = some (.texp [] none) ∧ decodeTableWord 8 0x08 = some (.tenc [] none) ∧
  decodeTableWord 8 0x09 = some (.tdec []) ∧ decodeTableWord 8 0x0A = some (.tcmp []) ∧
  decodeTableWord 8 0x00 = none ∧ decodeTableWord 8 0x0B = none ∧ decodeTableWord 8 0x0C = none ∧
  decodeTableWord 8 0x0D = none ∧ decodeTableWord 8 0x0E = none ∧ decodeTableWord 8 0x0F = none

/-! ## The Word Codec -/

/-- R90: `PARITY` answers 1 when the count of ones among bits 9 to 0 is even, 0 when it is odd, leaves the count
in `PCNT`, and changes nothing else but the outcome. -/
def Obligations.ParityResult : Prop :=
  ∀ (v : Word) (s : State),
    exec (.parity v) s = .next { s with
      pcnt := BitVec.ofNat 4 (payloadOnes v)
      outcome := 0
      results := s.results ++ [.ok 0x1#4 (.bit (decide (payloadOnes v % 2 = 0)))] }

/-- R92 and R61: `WENC` answers the container with the start marker, the ten pairs, the parity pair and zero
padding in the places R61 gives, leaves the count of ones in `PCNT`, and changes nothing else. -/
def Obligations.WencResult : Prop :=
  ∀ (v : Word) (s : State), ∃ c : Container,
    exec (.wenc v) s = .next { s with
      pcnt := BitVec.ofNat 4 (payloadOnes v)
      outcome := 0
      results := s.results ++ [.ok 0x2#4 (.container c)] } ∧
    c.getLsbD 31 = false ∧ c.getLsbD 30 = true ∧
    (∀ i, i < 10 → c.getLsbD (10 + 2 * i + 1) = !v.getLsbD i ∧ c.getLsbD (10 + 2 * i) = v.getLsbD i) ∧
    c.getLsbD 9 = (!decide (payloadOnes v % 2 = 0)) ∧ c.getLsbD 8 = decide (payloadOnes v % 2 = 0) ∧
    ∀ i, i < 8 → c.getLsbD i = false

/-- R96: `WDEC` answers the word the second chips of the ten payload pairs spell and the verdict of the second
chip of the trailing pair; a mismatch, and nothing else, increments `PERRCNT`, which saturates. -/
def Obligations.WdecResult : Prop :=
  ∀ (c : Container) (s : State), ∃ (v : Word) (ok : Bool),
    exec (.wdec c) s = .next { s with
      pcnt := BitVec.ofNat 4 (containerOnes c)
      perrcnt := BitVec.ofNat 16
        (if ok then s.perrcnt.toNat else min (s.perrcnt.toNat + 1) 0xFFFF)
      outcome := 0
      results := s.results ++ [.ok 0x3#4 (.decoded v ok)] } ∧
    (∀ i, i < 16 → v.getLsbD i = (decide (i < 10) && c.getLsbD (10 + 2 * i))) ∧
    ok = (c.getLsbD 8 == decide (containerOnes c % 2 = 0))

/-- R99: `WDEC` inverts `WENC` on the payload and finds the parity right; chip 23 is the parity; `WENC` is
injective on 0 to 0x03FF. -/
def Obligations.WdecInvertsWenc : Prop :=
  (∀ (v : Word) (s : State),
    exec (.wdec (wencWord v)) s = .next { s with
      pcnt := BitVec.ofNat 4 (payloadOnes v)
      outcome := 0
      results := s.results ++ [.ok 0x3#4 (.decoded (BitVec.ofNat 16 (v.toNat % 1024)) true)] }) ∧
  (∀ v : Word, (chips24 (wencWord v))[23]? = some (parityBit (payload v))) ∧
  ∀ v w : Word, v.toNat ≤ 0x3FF → w.toNat ≤ 0x3FF → wencWord v = wencWord w → v = w

/-- R92's corner cases: twelve ones and twelve zeros, bits 31 and 30 are `01`, the padding is 0, and words that
differ only above bit 9 encode alike. -/
def Obligations.EncodedWordIsBalanced : Prop :=
  ∀ v : Word,
    onesIn (chips24 (wencWord v)) = 12 ∧ (chips24 (wencWord v)).length = 24 ∧
    0x40000000 ≤ (wencWord v).toNat ∧ (wencWord v).toNat < 0x80000000 ∧
    (wencWord v).toNat % 256 = 0 ∧
    ∀ w : Word, v.toNat % 1024 = w.toNat % 1024 → wencWord v = wencWord w

/-! ## The Frame Signal Engine -/

/-- R110: `FTX` of 1 to `TX_CAPACITY` words answers preamble, start group, the 24 chips of each word back to
back, and the end pattern, and changes nothing but the outcome. -/
def Obligations.FtxResult : Prop :=
  ∀ (w : List Word) (s : State), 1 ≤ w.length → w.length ≤ s.par.txCapacity →
    ∃ l : List Chip,
      exec (.ftx w) s = .next { s with
        outcome := 0
        results := s.results ++ [.ok 0x4#4 (.chips l)] } ∧
      l.length = 15 + 24 * w.length + s.par.endPattern.length ∧
      l.take 15 = [false, true, false, true, false, true, false, true, false, true,
        false, false, true, true, true] ∧
      (∀ i v, w[i]? = some v → ∀ j, j < 24 →
        l[15 + 24 * i + j]? = some ((wencWord v).getLsbD (31 - j))) ∧
      l.drop (15 + 24 * w.length) = s.par.endPattern

/-- R111 and R110: `FTX` of no word, and of more than `TX_CAPACITY` words, is `InvalidInput` and drives
nothing. -/
def Obligations.FtxRefusesEmptyOrLong : Prop :=
  ∀ (w : List Word) (s : State), w = [] ∨ s.par.txCapacity < w.length →
    exec (.ftx w) s = .next { s with
      outcome := 1
      results := s.results ++ [.error 0x4#4 .invalidInput] }

/-- R120: `FRX` never fails; its values are what the receiver stores from `RX_QUIET` with an empty buffer, at
most `RX_SLOTS` of them, each the terminator or at most 0x03FF, and only the outcome changes. -/
def Obligations.FrxCompletes : Prop :=
  ∀ (l : List Chip) (s : State), ∃ (values : List Word) (mismatches : Nat),
    exec (.frx l) s = .next { s with
      outcome := 0
      results := s.results ++ [.ok 0x5#4 (.received values mismatches)] } ∧
    values = (RxUnit.run s.par.rxSlots RxUnit.fresh l).1.stored ∧
    mismatches = (RxUnit.run s.par.rxSlots RxUnit.fresh l).2 ∧
    values.length ≤ s.par.rxSlots ∧ mismatches ≤ values.length ∧
    ∀ v ∈ values, v = terminator ∨ v.toNat ≤ 0x3FF

/-- Frame round trip (R136), one frame between idle lines and two frames back to back. R136 says it for every
`END_PATTERN`; it needs that the chips after the second hold no start group, which the default has (log entry
29), so this statement carries that hypothesis. -/
def Obligations.FrameRoundTrip : Prop :=
  ∀ s : State, s.par.valid = true →
    Config.occursIn [true, false, false, true, true, true] (s.par.endPattern.drop 2) = false →
    (∀ (w : List Word) (a b : Nat), 1 ≤ w.length → w.length ≤ s.par.rxFrameMax →
      exec (.frx (List.replicate a false ++ frameChips s.par w ++ List.replicate b false)) s =
        .next { s with
          outcome := 0
          results := s.results ++
            [.ok 0x5#4 (.received
              (w.map (fun v => BitVec.ofNat 16 (v.toNat % 1024)) ++ [terminator]) 0)] }) ∧
    ∀ (w1 w2 : List Word) (b : Nat), 1 ≤ w1.length → 1 ≤ w2.length →
      w1.length + w2.length + 2 ≤ s.par.rxSlots →
      exec (.frx (frameChips s.par w1 ++ frameChips s.par w2 ++ List.replicate b false)) s =
        .next { s with
          outcome := 0
          results := s.results ++
            [.ok 0x5#4 (.received
              (w1.map (fun v => BitVec.ofNat 16 (v.toNat % 1024)) ++ [terminator] ++
                (w2.map (fun v => BitVec.ofNat 16 (v.toNat % 1024)) ++ [terminator])) 0)] }

/-- R118: started with the containers of a frame in `TXBUF` and `TXCNT = n - 1`, the transmitter drives exactly
`FTX(W)`, one chip a tick, and 0 after it; `TX_DONE` becomes 1 in the tick of the last chip. -/
def Obligations.TransmitterDrivesFrame : Prop :=
  ∀ (p : Config.Params) (tx : TxUnit) (w : List Word),
    p.valid = true → 1 ≤ w.length → w.length ≤ p.txCapacity →
    tx.txcnt.toNat + 1 = w.length →
    (∀ i v, w[i]? = some v → Memory.read tx.txbuf i = wencWord v) →
    (∀ k c, (frameChips p w)[k]? = some c →
      ∃ t, TxUnit.after p tx.begin (k + 1) = .ok t ∧ t.lineOut = c ∧
        t.txDone = decide (k + 1 = (frameChips p w).length) ∧ t.txbuf = tx.txbuf) ∧
    ∀ k, (frameChips p w).length ≤ k →
      ∃ t, TxUnit.after p tx.begin (k + 1) = .ok t ∧ t.lineOut = false ∧ t.txst = .idle ∧
        t.txDone = true

/-- R117: teardown's stop leaves the transmitter idle with the line at 0 wherever it was, and does not set
`TX_DONE`; from then on every tick drives 0 and changes nothing else. -/
def Obligations.StoppedTransmitterStaysSilent : Prop :=
  ∀ (p : Config.Params) (tx : TxUnit) (n : Nat),
    TxUnit.after p tx.halt n = .ok { tx with txst := .idle, lineOut := false }

/-- R135: fed the chips of a frame in any hunting state with room left, the receiver stores word `i` in the tick
that consumes chip `38 + 24 i` of the frame and the terminator in the tick that consumes chip `16 + 24 n`, and
stores at no other of these ticks. -/
def Obligations.ReceiverStoreTimes : Prop :=
  ∀ (p : Config.Params) (rx : RxUnit) (w : List Word),
    p.valid = true → Memory.wf rx.rxbuf = true → rx.hunting → 1 ≤ w.length → rx.rxwp + w.length + 1 ≤ p.rxSlots →
    (∀ i v, w[i]? = some v →
      (RxUnit.run p.rxSlots rx ((frameChips p w).take (38 + 24 * i))).1.rxwp = rx.rxwp + i ∧
      (RxUnit.run p.rxSlots rx ((frameChips p w).take (39 + 24 * i))).1.rxwp = rx.rxwp + i + 1 ∧
      Memory.read (RxUnit.run p.rxSlots rx ((frameChips p w).take (39 + 24 * i))).1.rxbuf
        (rx.rxwp + i) = BitVec.ofNat 16 (v.toNat % 1024)) ∧
    (RxUnit.run p.rxSlots rx ((frameChips p w).take (16 + 24 * w.length))).1.rxwp =
      rx.rxwp + w.length ∧
    (RxUnit.run p.rxSlots rx ((frameChips p w).take (17 + 24 * w.length))).1.rxwp =
      rx.rxwp + w.length + 1 ∧
    Memory.read (RxUnit.run p.rxSlots rx ((frameChips p w).take (17 + 24 * w.length))).1.rxbuf
      (rx.rxwp + w.length) = terminator ∧
    (RxUnit.run p.rxSlots rx ((frameChips p w).take (17 + 24 * w.length))).1.rxst = .quiet

/-- R126: from `RX_QUIET`, and as long as no start was recognised before, the detector fires exactly when the
last six chips are `100111` and the line was low at some time before them. -/
def Obligations.FrameSyncDetector : Prop :=
  ∀ (slots : Nat) (rx : RxUnit) (l : List Chip), rx.rxst = .quiet →
    (∀ k, k < l.length → (RxUnit.run slots rx (l.take k)).1.rxst ≠ .wsA) →
    ((RxUnit.run slots rx l).1.rxst = .wsA ↔
      ∃ x, false ∈ x ∧ l = x ++ [true, false, false, true, true, true])

/-- R137 (d): a receiver started anywhere in the words of a frame with the default end pattern finds no start
group in the rest of the frame and the idle line after it, and stores nothing. -/
def Obligations.LateReceiverStoresNothing : Prop :=
  ∀ (slots : Nat) (rx : RxUnit) (w : List Word) (k b : Nat), k ≤ 24 * w.length →
    (RxUnit.run slots rx.begin
      ((wordChips w).drop k ++ [false, false, true, true] ++ List.replicate b false)).1.rxwp =
        rx.rxwp ∧
    (RxUnit.run slots rx.begin
      ((wordChips w).drop k ++ [false, false, true, true] ++ List.replicate b false)).1.rxbuf =
        rx.rxbuf

/-- R131 and R132: the tick that consumes the last chip of a word stores the ten payload bits at `RXWP`, goes on
to the next word slot, and counts a mismatch exactly when the trailing bit is not the odd parity of the payload;
no other slot changes. -/
def Obligations.WordStore : Prop :=
  ∀ (slots : Nat) (c : Chip) (rx : RxUnit),
    Memory.wf rx.rxbuf = true → rx.rxst = .bitB → rx.rxnb = 10 → rx.rxwp < slots →
    ∃ u : RxUnit,
      RxUnit.tick slots c rx =
        (u, c != decide (payloadOnes (BitVec.ofNat 16 (rx.rxsr.toNat % 1024)) % 2 = 0)) ∧
      u = { rx with
        rxst := .wsA, rxnb := 11, rxwp := rx.rxwp + 1
        rxsr := u.rxsr, rxbuf := u.rxbuf } ∧
      u.rxsr.toNat = 2 * (rx.rxsr.toNat % 1024) + c.toNat ∧
      Memory.read u.rxbuf rx.rxwp = BitVec.ofNat 16 (rx.rxsr.toNat % 1024) ∧
      ∀ j, j ≠ rx.rxwp → Memory.read u.rxbuf j = Memory.read rx.rxbuf j

/-- R127 and R133: in `RX_WS_B`, `01` opens a word and anything else ends the frame: the terminator is stored at
`RXWP` and the receiver waits for the next quiescent line; no other slot changes. -/
def Obligations.EndMarkerDetector : Prop :=
  ∀ (slots : Nat) (c : Chip) (rx : RxUnit), rx.rxst = .wsB →
    (rx.rxa = false ∧ c = true →
      RxUnit.tick slots c rx = ({ rx with rxst := .bitA, rxsr := 0, rxnb := 0 }, false)) ∧
    (¬(rx.rxa = false ∧ c = true) → rx.rxwp < slots →
      ∃ u : RxUnit, RxUnit.tick slots c rx = (u, false) ∧
        u = { rx with rxst := .quiet, rxwp := rx.rxwp + 1, rxbuf := u.rxbuf } ∧
        Memory.read u.rxbuf rx.rxwp = 0xFFFF#16 ∧
        ∀ j, j ≠ rx.rxwp → Memory.read u.rxbuf j = Memory.read rx.rxbuf j)

/-- R134: a store that finds the buffer full loses its value and stalls the receiver; a stalled receiver, and
one that is off, consumes no chip and counts no mismatch, however long the line goes on. -/
def Obligations.FullBufferStalls : Prop :=
  ∀ (slots : Nat) (rx : RxUnit),
    (∀ c, slots ≤ rx.rxwp →
      (rx.rxst = .bitB ∧ rx.rxnb = 10) ∨ (rx.rxst = .wsB ∧ ¬(rx.rxa = false ∧ c = true)) →
      (RxUnit.tick slots c rx).1.rxst = .stall ∧ (RxUnit.tick slots c rx).1.rxbuf = rx.rxbuf ∧
        (RxUnit.tick slots c rx).1.rxwp = rx.rxwp ∧ (RxUnit.tick slots c rx).2 = false) ∧
    ∀ l, rx.rxst = .stall ∨ rx.rxst = .off → RxUnit.run slots rx l = (rx, 0)

/-- R49: a chip makes the receiver store at most one value, at `RXWP`, and never changes another slot; `RXWP`
goes up by one exactly when it stores. -/
def Obligations.StoresGoUpward : Prop :=
  ∀ (slots : Nat) (c : Chip) (rx : RxUnit),
    ((RxUnit.tick slots c rx).1.rxwp = rx.rxwp ∧ (RxUnit.tick slots c rx).1.rxbuf = rx.rxbuf) ∨
    (rx.rxwp < slots ∧ (RxUnit.tick slots c rx).1.rxwp = rx.rxwp + 1 ∧
      ∀ j, j ≠ rx.rxwp →
        Memory.read (RxUnit.tick slots c rx).1.rxbuf j = Memory.read rx.rxbuf j)

/-- R43: over a buffer the receiver can have filled, the byte-wise search for two bytes 0xFF finds the same
place as the slot-wise search for the terminator. -/
def Obligations.ByteAndSlotSearchAgree : Prop :=
  ∀ (p : Config.Params) (rx : RxUnit), rx.bufferOk p →
    byteSearch (tbytes (Memory.readList rx.rxbuf 0 p.rxSlots)) =
      (Memory.findTerminator rx.rxbuf 0 p.rxSlots).map (2 * ·)

/-! ## The Transaction Engine -/

/-- R153: a `TRANSACT` that passes the checks in `Idle` arms: the receive buffer is cleared, the outbound words
are encoded into `TXBUF`, `TXCNT = n - 1`, `TIMEOUT = T`. Nothing is driven and no chip consumed. `PCNT` after
the arm is a free value (log entry 6). -/
def Obligations.TransactArms : Prop :=
  ∀ (b : List Byte) (t : Timeout) (s : State),
    b.length % 2 = 0 → b.length ≠ 0 → b.length / 2 ≤ s.par.txCapacity → s.par.txCapacity ≤ 65536 →
    Timeout.deadline t < 2 ^ s.par.timerBits → s.tst = .idle →
    ∃ u : State, exec (.transact b t) s = .next u ∧
      u = { s with
        tst := .armed
        timeout := Timeout.deadline t
        pcnt := u.pcnt
        freeCount := u.freeCount
        rx := { s.rx with rxbuf := u.rx.rxbuf, rxwp := 0 }
        tx := { s.tx with txbuf := u.tx.txbuf, txcnt := u.tx.txcnt, txDone := false } } ∧
      u.tx.txcnt.toNat + 1 = b.length / 2 ∧
      (∀ j, Memory.read u.rx.rxbuf j = 0) ∧
      (∀ i b0 b1, b[2 * i]? = some b0 → b[2 * i + 1]? = some b1 →
        Memory.read u.tx.txbuf i = wencWord (BitVec.ofNat 16 (b0.toNat + 256 * b1.toNat))) ∧
      ∀ i, b.length / 2 ≤ i → Memory.read u.tx.txbuf i = Memory.read s.tx.txbuf i

/-- R152: a `TRANSACT` whose operands fail a check is `InvalidInput` in every state of the engine, and changes
nothing but `OUTCOME`. -/
def Obligations.TransactRefusesBadOperands : Prop :=
  ∀ (b : List Byte) (t : Timeout) (s : State),
    b.length % 2 = 1 ∨ b.length / 2 = 0 ∨ s.par.txCapacity < b.length / 2 ∨
      2 ^ s.par.timerBits ≤ Timeout.deadline t →
    exec (.transact b t) s = .next { s with
      outcome := 1
      results := s.results ++ [.error 0x6#4 .invalidInput] }

/-- R164 and R162: a `TRANSACT` that passes the checks is held, untouched, behind those already held while the
engine is busy, and ends at once with `Fatal` in `Halted`. -/
def Obligations.TransactWaitsOrFails : Prop :=
  ∀ (b : List Byte) (t : Timeout) (s : State),
    b.length % 2 = 0 → b.length ≠ 0 → b.length / 2 ≤ s.par.txCapacity →
    Timeout.deadline t < 2 ^ s.par.timerBits →
    (s.tst ≠ .idle → s.tst ≠ .halted →
      exec (.transact b t) s = .next { s with
        held := s.held ++ [{ bytes := b, deadline := Timeout.deadline t }] }) ∧
    (s.tst = .halted →
      exec (.transact b t) s = .next { s with
        outcome := 5
        results := s.results ++ [.error 0x6#4 .fatal] })

/-- R151: `T` is the least number of ticks not shorter than the milliseconds asked for, at 23587 ticks for every
5 ms; 1000 ms when the request carries none. -/
def Obligations.TimeoutConversion : Prop :=
  (∀ n : Nat, n * 23587 ≤ 5 * Timeout.deadline (.ms n) ∧
    ∀ k : Nat, n * 23587 ≤ 5 * k → Timeout.deadline (.ms n) ≤ k) ∧
  Timeout.deadline .absent = 4717400 ∧ Timeout.deadline (.ms 10) = 47174 ∧
  Timeout.deadline (.ms 100) = 471740 ∧ 1000 * 23587 = 5 * Config.chipRate

/-- R154 and R155: the first tick of an armed transaction whose deadline is not 0 starts both units together:
chip 0 of the preamble is driven and the first chip of the line is consumed from `RX_QUIET`. -/
def Obligations.ArmedTickStartsBothUnits : Prop :=
  ∀ (s : State) (c : Chip) (a : Bool), s.Inv → s.tst = .armed → 0 < s.timeout →
    tick c a s = .next { s with
      tst := .inFlight
      timer := 1
      tx := { s.tx with txst := .sync, txpos := 1, txidx := 0, txDone := false, lineOut := false }
      rx := { s.rx with rxst := if c then .quiet else .arm, rxnb := 0, rxsr := 0 } }

/-- R155: in a tick of `InFlight` that is no poll, the transmitter performs its tick, the receiver consumes the
chip, mismatches count, `TIMER` goes up by one, and nothing else changes. -/
def Obligations.TickWithoutPoll : Prop :=
  ∀ (s : State) (c : Chip) (a : Bool), s.Inv → s.tst = .inFlight →
    s.timer % s.par.pollTicks ≠ 0 →
    ∃ t : TxUnit, TxUnit.tick s.par s.tx = .ok t ∧
      tick c a s = .next { s with
        tx := t
        rx := (RxUnit.tick s.par.rxSlots c s.rx).1
        timer := s.timer + 1
        perrcnt := BitVec.ofNat 16
          (min (s.perrcnt.toNat + (RxUnit.tick s.par.rxSlots c s.rx).2.toNat) 0xFFFF) }

/-- R156, R157, R161, R163, R164: a poll that finds a terminator ends the transaction, also when the timer has
expired; with the acknowledge given, both units are stopped, the host has the `j` words before the first
terminator, low byte first, and the engine is back in `Idle`, or has armed the request held longest. That the
engine is back in `Idle` within the tick of the poll is the model's choice (log entry 8: the acknowledge is
sampled in each tick, and R161 lets teardown take 0 ticks), and so is arming in the same step (log entry 11). -/
def Obligations.PollFindsTerminator : Prop :=
  ∀ (s : State) (c : Chip) (j : Nat),
    s.par.valid = true → (∀ r ∈ s.held, requestOk s.par r = true) →
    s.tst = .inFlight → s.timer % s.par.pollTicks = 0 →
    j < s.par.rxSlots → Memory.read s.rx.rxbuf j = terminator →
    (∀ i, i < j → Memory.read s.rx.rxbuf i ≠ terminator) →
    ∃ (b : List Byte) (u : State),
      tick c true s = .next u ∧ ServedFrom (s.returned 0 (.ok 0x6#4 (.bytes b))) u ∧
      isResultOf s.rx j b

/-- R155, R156, R158, R161, R163, R164: a poll that finds no terminator and an expired timer ends the transaction
with `ReceiveTimeout` and no bytes (the engine is `Idle`, or has armed the request held longest, within this tick
by the model's choice, log entries 8 and 11); one that finds neither goes on like any other tick: transmitter,
receiver, `TIMER`, `PERRCNT`, and nothing else. -/
def Obligations.PollFindsNoTerminator : Prop :=
  ∀ (s : State) (c : Chip),
    s.tst = .inFlight → s.timer % s.par.pollTicks = 0 →
    (∀ i, i < s.par.rxSlots → Memory.read s.rx.rxbuf i ≠ terminator) →
    (s.timeout ≤ s.timer → s.par.valid = true → (∀ r ∈ s.held, requestOk s.par r = true) →
      ∃ u : State, tick c true s = .next u ∧
        ServedFrom (s.returned 3 (.error 0x6#4 .receiveTimeout)) u) ∧
    (s.timer < s.timeout → ∀ a, s.Inv →
      ∃ t : TxUnit, TxUnit.tick s.par s.tx = .ok t ∧
        tick c a s = .next { s with
          tx := t
          rx := (RxUnit.tick s.par.rxSlots c s.rx).1
          timer := s.timer + 1
          perrcnt := BitVec.ofNat 16
            (min (s.perrcnt.toNat + (RxUnit.tick s.par.rxSlots c s.rx).2.toNat) 0xFFFF) })

/-- R158 and R250: `InFlight` is left for `TimedOut`, or ends in `ReceiveTimeout`, only at a poll, not before the
deadline, and only with no terminator in the buffer. -/
def Obligations.TimeoutNeverEarly : Prop :=
  ∀ (s u : State) (c : Chip) (a : Bool), s.tst = .inFlight → tick c a s = .next u →
    u.tst = .timedOut ∨ u.results = s.results ++ [.error 0x6#4 .receiveTimeout] →
    s.timeout ≤ s.timer ∧ s.timer % s.par.pollTicks = 0 ∧
      ∀ i, i < s.par.rxSlots → Memory.read s.rx.rxbuf i ≠ terminator

/-- R161, R163, R164: while teardown waits, an acknowledge ends it with the outcome the poll reached; the engine is
back in `Idle`, or has armed the request held longest, as R153 says. The wait tick by tick for an acknowledge
sampled in each tick is the model's choice (log entry 8), and so is arming in the same step (log entry 11). -/
def Obligations.AcknowledgeEndsTeardown : Prop :=
  ∀ (s : State) (c : Chip), s.tst = .completed ∨ s.tst = .timedOut →
    s.par.valid = true → (∀ r ∈ s.held, requestOk s.par r = true) →
    ∃ u : State, tick c true s = .next u ∧
      ServedFrom { s with
        tst := .idle
        xferBusy := false
        captured := []
        tx := { s.tx with lineOut := false }
        outcome := if s.tst = .completed then 0 else 3
        results := s.results ++
          [if s.tst = .completed then .ok 0x6#4 (.bytes s.captured)
           else .error 0x6#4 .receiveTimeout] } u

/-- R162: an acknowledge withheld past `ABORT_ACK_TICKS` halts the engine with `Fatal`, whatever the poll had
reached; before that, teardown goes on waiting and no outcome is given. R31 has one `abort_ok` for a whole
teardown: that it is sampled in each tick, and that the engine halts in the tick in which the wait has reached
`ABORT_ACK_TICKS`, is the model's choice (log entry 8). The requests held end with `Fatal` too (the model's
inference, log entry 10), and `XFER_BUSY` is left open (log entry 7). -/
def Obligations.WithheldAcknowledgeIsFatal : Prop :=
  ∀ (s : State) (c : Chip), s.tst = .completed ∨ s.tst = .timedOut →
    (s.par.abortAckTicks ≤ s.ackWait →
      ∃ u : State, tick c false s = .next u ∧
        u = { s with
          tst := .halted
          captured := []
          held := []
          outcome := 5
          xferBusy := u.xferBusy
          freeCount := u.freeCount
          tx := { s.tx with lineOut := false }
          results := s.results ++ List.replicate (s.held.length + 1) (.error 0x6#4 .fatal) }) ∧
    (s.ackWait < s.par.abortAckTicks →
      ∃ u : State, tick c false s = .next u ∧
        u = { s with
          ackWait := s.ackWait + 1
          xferBusy := u.xferBusy
          freeCount := u.freeCount
          tx := { s.tx with lineOut := false } })

/-- R162 and R257: no step but reset leaves `Halted`, and in `Halted` no transaction is armed or held and the
line stays at 0. -/
def Obligations.HaltedIsSticky : Prop :=
  ∀ s u : State, s.tst = .halted → step s = .next u → s.inputs.head? ≠ some .rst →
    u.tst = .halted ∧ u.held = s.held ∧ u.rx = s.rx ∧
      u.tx = { s.tx with lineOut := u.tx.lineOut } ∧
      (s.tx.lineOut = false → u.tx.lineOut = false)

/-- R165: no request, register read or register write ends or disturbs a transaction that is armed, in flight or
in teardown. -/
def Obligations.NoCancel : Prop :=
  ∀ (s u : State) (x : Input) (rest : List Input),
    s.tst ≠ .idle → s.tst ≠ .halted → s.inputs = x :: rest →
    (∀ c a, x ≠ .tick c a) → x ≠ .rst → step s = .next u →
    u.tst = s.tst ∧ u.tx = s.tx ∧ u.rx = s.rx ∧ u.timer = s.timer ∧ u.timeout = s.timeout ∧
      u.captured = s.captured ∧ u.ackWait = s.ackWait ∧ ∃ more, u.held = s.held ++ more

/-- Spec/40 and spec/43: every codec operation completes in every state of the engine, `Halted` included, and
touches only `PCNT`, `PERRCNT`, `OUTCOME` and the result channel. -/
def Obligations.CodecOperationsLeaveEngineAlone : Prop :=
  ∀ (i : Instr) (s : State), isCodecOperation i = true →
    ∃ u : State, exec i s = .next u ∧
      u = { s with
        pcnt := u.pcnt, perrcnt := u.perrcnt, outcome := u.outcome, results := u.results } ∧
      (u.outcome = 0 ∨ u.outcome = 1 ∨ u.outcome = 2) ∧
      ∃ r, u.results = s.results ++ [r]

/-- R156 and R163: from every state of `InFlight` that meets the invariant, ticks alone bring the engine out of
`InFlight` by the last poll, which is before `T + POLL_TICKS`, whatever the line and the acknowledge do. -/
def Obligations.InFlightEndsInTime : Prop :=
  ∀ s : State, s.Inv → s.tst = .inFlight →
    (∃ ts : List (Chip × Bool), ts.length = lastPoll s.par s.timeout - s.timer + 1 ∧
      ts.map (fun x => Input.tick x.1 x.2) <+: s.inputs) →
    lastPoll s.par s.timeout < s.timeout + s.par.pollTicks ∧
    ∃ (k : Nat) (u : State), k ≤ lastPoll s.par s.timeout - s.timer + 1 ∧
      Sys2Proof.core.run k s = .next u ∧ u.tst ≠ .inFlight

/-- R166: stepped tick by tick from `Idle`, `TRANSACT` gives the outcome of the function of R166, after
`t_exit = k* P` ticks in `InFlight` and the exit poll, and leaves `TIMER`, `PERRCNT` and `TST` as R166 says, for
every `ABORT_ACK_TICKS`. How many steps that takes is the model's choice: the tick after arming is tick 0
(log entry 9), and teardown ends in the tick of the exit poll when the acknowledge is given, and
`ABORT_ACK_TICKS` ticks after it when it never is (log entry 8). -/
def Obligations.TransactMatchesFunction : Prop :=
  ∀ (s : State) (b : List Byte) (t : Timeout) (line : Nat → Chip) (a : Bool) (wait : Nat)
    (rest : List Input),
    s.Inv → s.tst = .idle → wait = (if a then 0 else s.par.abortAckTicks) →
    requestOk s.par { bytes := b, deadline := Timeout.deadline t } = true →
    s.inputs = .request (encode (.transact b t)) ::
      (lineTicks line a (exitTick s.par line (Timeout.deadline t) + 1 + wait) ++ rest) →
    ∃ u : State,
      Sys2Proof.core.run (exitTick s.par line (Timeout.deadline t) + 2 + wait) s = .next u ∧
      u.results = s.results ++ [transactFunction s.par b t line a] ∧
      u.tst = (if a then .idle else .halted) ∧
      u.timer = exitTick s.par line (Timeout.deadline t) ∧
      u.perrcnt = saturatingAdd s.perrcnt
        (rxAfter s.par line (exitTick s.par line (Timeout.deadline t))).2 ∧
      u.inputs = rest ∧ u.tx.lineOut = false

/-! ## The Frame Transport Codec -/

/-- R180: `TEXP` without a descriptor, or with count 0 whatever the offset, answers the sequence itself; with a
positive count and an offset inside the sequence it answers the words before the offset and then the tail
`count` times, `offset + count (m - offset)` words. -/
def Obligations.TexpResult : Prop :=
  ∀ (ws : List Word) (s : State),
    exec (.texp ws none) s = .next { s with
      outcome := 0, results := s.results ++ [.ok 0x7#4 (.words ws)] } ∧
    (∀ o : Int, exec (.texp ws (some { count := 0, offset := o })) s = .next { s with
      outcome := 0, results := s.results ++ [.ok 0x7#4 (.words ws)] }) ∧
    ∀ c o : Nat, 0 < c → o < ws.length →
      (∀ m, s.par.expandMaxWords = some m → o + c * (ws.length - o) ≤ m) →
      ∃ f : List Word,
        exec (.texp ws (some { count := c, offset := o })) s = .next { s with
          outcome := 0, results := s.results ++ [.ok 0x7#4 (.words f)] } ∧
        f.length = o + c * (ws.length - o) ∧ f.take o = ws.take o ∧
        ∀ k, k < c * (ws.length - o) → f[o + k]? = ws[o + k % (ws.length - o)]?

/-- R181 and R180: `TEXP` and `TENC` end with `InvalidInput`, and produce no word and no byte, for a negative
count, for a positive count with an offset that is negative or not inside the sequence, and for a result longer
than a finite `EXPAND_MAX_WORDS`. -/
def Obligations.BadDescriptorIsInvalidInput : Prop :=
  ∀ (ws : List Word) (d : RDesc) (s : State),
    d.count < 0 ∨ (0 < d.count ∧ (d.offset < 0 ∨ (ws.length : Int) ≤ d.offset)) ∨
      (0 < d.count ∧ 0 ≤ d.offset ∧ d.offset < ws.length ∧
        ∃ m : Nat, s.par.expandMaxWords = some m ∧
          (m : Int) < d.offset + d.count * ((ws.length : Int) - d.offset)) →
    exec (.texp ws (some d)) s = .next { s with
      outcome := 1, results := s.results ++ [.error 0x7#4 .invalidInput] } ∧
    exec (.tenc ws (some d)) s = .next { s with
      outcome := 1, results := s.results ++ [.error 0x8#4 .invalidInput] }

/-- R184: `TENC` answers the bytes of the sequence `TEXP` gives, two for each word, low byte first, in every
case in which `TEXP` gives one, and ends with `InvalidInput` and no byte when `TEXP` does. -/
def Obligations.TencResult : Prop :=
  ∀ (ws : List Word) (d : Option RDesc) (s : State),
    (∀ f : List Word,
      exec (.texp ws d) s = .next { s with
        outcome := 0, results := s.results ++ [.ok 0x7#4 (.words f)] } →
      ∃ b : List Byte,
        exec (.tenc ws d) s = .next { s with
          outcome := 0, results := s.results ++ [.ok 0x8#4 (.bytes b)] } ∧
        b.length = 2 * f.length ∧
        ∀ k v, f[k]? = some v →
          b[2 * k]? = some (v.extractLsb' 0 8) ∧ b[2 * k + 1]? = some (v.extractLsb' 8 8)) ∧
    (exec (.texp ws d) s = .next { s with
        outcome := 1, results := s.results ++ [.error 0x7#4 .invalidInput] } →
      exec (.tenc ws d) s = .next { s with
        outcome := 1, results := s.results ++ [.error 0x8#4 .invalidInput] })

/-- `TENC` completes without a descriptor, and with one that R181 does not refuse (R180, R184). -/
def Obligations.TencCompletes : Prop :=
  ∀ (ws : List Word) (d : Option RDesc) (s : State),
    (∀ e, d = some e → 0 ≤ e.count ∧ (0 < e.count → 0 ≤ e.offset ∧ e.offset < ws.length ∧
      ∀ m : Nat, s.par.expandMaxWords = some m →
        e.offset + e.count * ((ws.length : Int) - e.offset) ≤ m)) →
    ∃ b : List Byte,
      exec (.tenc ws d) s = .next { s with
        outcome := 0, results := s.results ++ [.ok 0x8#4 (.bytes b)] } ∧
      b.length % 2 = 0

/-- R188: `TDEC` of an even number of bytes answers one word for each pair, low byte first; of an odd number it
ends with `InvalidFrame`. Nothing else changes. -/
def Obligations.TdecResult : Prop :=
  ∀ (b : List Byte) (s : State),
    (b.length % 2 = 1 →
      exec (.tdec b) s = .next { s with
        outcome := 2, results := s.results ++ [.error 0x9#4 .invalidFrame] }) ∧
    (b.length % 2 = 0 →
      ∃ ws : List Word,
        exec (.tdec b) s = .next { s with
          outcome := 0, results := s.results ++ [.ok 0x9#4 (.words ws)] } ∧
        ws.length = b.length / 2 ∧
        ∀ k b0 b1, b[2 * k]? = some b0 → b[2 * k + 1]? = some b1 →
          ws[k]? = some (BitVec.ofNat 16 (b0.toNat + 256 * b1.toNat)))

/-- R192: `TCMP` stores a tail run of `r >= 2` equal words once, with `(r, n - r)`; a sequence without such a run
comes back unchanged with count 0. -/
def Obligations.TcmpResult : Prop :=
  (∀ (pre : List Word) (w : Word) (r : Nat) (s : State), 2 ≤ r → pre.getLast? ≠ some w →
    exec (.tcmp (pre ++ List.replicate r w)) s = .next { s with
      outcome := 0
      results := s.results ++
        [.ok 0xA#4 (.compressed (pre ++ [w]) { count := r, offset := pre.length })] }) ∧
  ∀ (ws : List Word) (s : State), (∀ pre w, ws ≠ pre ++ [w, w]) →
    exec (.tcmp ws) s = .next { s with
      outcome := 0
      results := s.results ++ [.ok 0xA#4 (.compressed ws { count := 0, offset := 0 })] }

/-- R195: the transport round trip in both directions, through the operations. -/
def Obligations.TransportRoundTrip : Prop :=
  (∀ (b : List Byte) (s : State), b.length % 2 = 0 →
    ∃ ws, exec (.tdec b) s = .next (s.endOk 0x9#4 (.words ws)) ∧
      exec (.tenc ws none) s = .next (s.endOk 0x8#4 (.bytes b))) ∧
  ∀ (ws : List Word) (s : State),
    ∃ b, exec (.tenc ws none) s = .next (s.endOk 0x8#4 (.bytes b)) ∧
      exec (.tdec b) s = .next (s.endOk 0x9#4 (.words ws))

/-- R196: the descriptor is invisible to decode, and compressing first does not change the bytes: `TEXP` of what
`TCMP` answers is the sequence it was given, unless the sequence has a tail run and is longer than a finite
`EXPAND_MAX_WORDS`. For such a sequence R180's check makes both `TEXP` and `TENC` of what `TCMP` answers
`InvalidInput`, while R196 and R192 make no exception: that R180 is followed is the model's choice (log entry
33). -/
def Obligations.DescriptorInvisibleToDecode : Prop :=
  (∀ (ws f : List Word) (d : Option RDesc) (s : State),
    exec (.texp ws d) s = .next (s.endOk 0x7#4 (.words f)) →
    ∃ b, exec (.tenc ws d) s = .next (s.endOk 0x8#4 (.bytes b)) ∧
      exec (.tdec b) s = .next (s.endOk 0x9#4 (.words f))) ∧
  ∀ (ws : List Word) (s : State), ∃ (c : List Word) (d : RDesc),
    exec (.tcmp ws) s = .next (s.endOk 0xA#4 (.compressed c d)) ∧ c.length ≤ ws.length ∧
    ((∀ m, s.par.expandMaxWords = some m → ws.length ≤ m) ∨ (∀ pre w, ws ≠ pre ++ [w, w]) →
      exec (.texp c (some d)) s = .next (s.endOk 0x7#4 (.words ws)) ∧
      exec (.tenc c (some d)) s = exec (.tenc ws none) s) ∧
    ∀ m, s.par.expandMaxWords = some m → m < ws.length → (∃ pre w, ws = pre ++ [w, w]) →
      exec (.texp c (some d)) s = .next (s.raiseError 0x7#4 .invalidInput) ∧
      exec (.tenc c (some d)) s = .next (s.raiseError 0x8#4 .invalidInput)

/-! ## Registers, errors, reset -/

/-- R22: the bits of `STATUS`, and writes are ignored. -/
def Obligations.StatusLayout : Prop :=
  ∀ s : State,
    s.status.toNat % 8 = (match s.tst with
      | .idle => 0 | .armed => 1 | .inFlight => 2 | .completed => 3 | .timedOut => 4 | .halted => 5) ∧
    s.status.getLsbD 3 = decide (s.tx.txst ≠ .idle) ∧
    s.status.getLsbD 4 = decide (s.rx.rxst ≠ .off) ∧
    s.status.getLsbD 5 = s.tx.txDone ∧
    s.status.getLsbD 6 = decide (s.rx.rxst = .stall) ∧
    s.status.getLsbD 7 = decide (s.perrcnt ≠ 0) ∧
    s.status.getLsbD 8 = s.xferBusy ∧
    (∀ i, 9 ≤ i → s.status.getLsbD i = false) ∧
    ∀ v, applyInput (.writeReg 0 v) s = .next s

/-- Section 4 of spec/10: what a host reads at each register number; 7 and above read 0; a write changes nothing.
Codes in `OUTCOME` are those of R200. -/
def Obligations.RegisterMap : Prop :=
  ∀ s : State,
    s.register 0 = s.status.toNat ∧ s.register 1 = s.outcome.toNat ∧ s.register 2 = s.timeout ∧
    s.register 3 = s.timer ∧ s.register 4 = s.tx.txcnt.toNat ∧ s.register 5 = s.rx.rxwp ∧
    s.register 6 = s.perrcnt.toNat ∧ (∀ n, 7 ≤ n → s.register n = 0) ∧
    (∀ n v, applyInput (.writeReg n v) s = .next s) ∧
    ErrKind.invalidInput.code = 1 ∧ ErrKind.invalidFrame.code = 2 ∧ ErrKind.receiveTimeout.code = 3 ∧
    ErrKind.interfaceError.code = 4 ∧ ErrKind.fatal.code = 5

/-- R21: no step but reset makes `PERRCNT` smaller, and no step adds more than one. -/
def Obligations.MismatchCounterOnlyGrows : Prop :=
  ∀ s u : State, step s = .next u → s.inputs.head? ≠ some .rst →
    s.perrcnt.toNat ≤ u.perrcnt.toNat ∧ u.perrcnt.toNat ≤ s.perrcnt.toNat + 1

/-- R240 and R241: `rst` puts every register, flag and pointer at its reset value from every state, leaves
`Halted`, drops the transaction under way and the held requests, and gives no outcome to the host. -/
def Obligations.ResetEvent : Prop :=
  ∀ (s : State) (rest : List Input), s.par.valid = true → s.inputs = .rst :: rest →
    ∃ u : State, step s = .next u ∧
      u.pcnt = 0 ∧ u.tx.txsr = 0 ∧ u.tx.txcnt = 0 ∧ u.tx.txidx = 0 ∧ u.tx.txpos = 0 ∧
      u.rx.rxsr = 0 ∧ u.rx.rxnb = 0 ∧ u.rx.rxa = false ∧ u.rx.rxwp = 0 ∧
      u.tx.txst = .idle ∧ u.rx.rxst = .off ∧ u.tst = .idle ∧ u.tx.txDone = false ∧
      u.xferBusy = false ∧ u.perrcnt = 0 ∧ u.outcome = 0 ∧ u.status = 0 ∧
      u.timeout = 0 ∧ u.timer = 0 ∧ u.tx.lineOut = false ∧
      u.held = [] ∧ u.results = s.results ∧ u.par = s.par ∧ u.inputs = rest

/-- Section 9 of spec/10: the reset state itself. -/
def Obligations.ResetState : Prop :=
  State.reset.pcnt = 0 ∧ State.reset.tx.txsr = 0 ∧ State.reset.tx.txcnt = 0 ∧
  State.reset.tx.txidx = 0 ∧ State.reset.tx.txpos = 0 ∧ State.reset.rx.rxsr = 0 ∧
  State.reset.rx.rxnb = 0 ∧ State.reset.rx.rxa = false ∧ State.reset.rx.rxwp = 0 ∧
  State.reset.tx.txst = .idle ∧ State.reset.rx.rxst = .off ∧ State.reset.tst = .idle ∧
  State.reset.tx.txDone = false ∧ State.reset.xferBusy = false ∧ State.reset.perrcnt = 0 ∧
  State.reset.status = 0 ∧ State.reset.outcome = 0 ∧ State.reset.timeout = 0 ∧
  State.reset.timer = 0 ∧ State.reset.tx.lineOut = false ∧ State.reset.txActive = false

/-- The invariant holds after reset, for every parameter set that meets R2. R240 leaves the contents of the
buffers unspecified: that they hold no value but 0 is the model's choice (log entry 5), and so are the reset
values of the captured result and of the wait counter (log entry 25). -/
def Obligations.InvariantHoldsAtReset : Prop :=
  State.reset.Inv ∧ ∀ p : Config.Params, p.valid = true → (State.resetWith p).Inv

/-- Every step keeps the invariant: buffers in canonical form and inside their ranges, pointers and counters in
range, units off outside `InFlight`, the timer within its last poll, requests held only while busy. Where it
rests on the model's choices: after `rst` on the buffers' being 0 (log entry 5) and on log entry 25; that no
request stays held in `Halted` on log entry 10 and in `Idle` on log entry 11; the bound on the wait for the
acknowledge on log entry 8. -/
def Obligations.StepKeepsInvariant : Prop :=
  ∀ s u : State, s.Inv → step s = .next u → u.Inv

/-- R40 and U5: from a state that meets the invariant no step stops: every access is in range, every operation
and every tick has a next state. -/
def Obligations.NoStepStops : Prop :=
  ∀ s : State, s.Inv → ¬ stops (step s)

/-- R159: whatever a step gives the host as the result of a transaction is whole words of at most 0x03FF, at most
`RX_FRAME_MAX` of them, so never the terminator. -/
def Obligations.ReturnedFramesAreLegal : Prop :=
  ∀ s u : State, s.Inv → step s = .next u →
    s.results <+: u.results ∧
    ∀ b, .ok 0x6#4 (.bytes b) ∈ u.results.drop s.results.length →
      resultLegal s.par b ∧ terminator ∉ wordsOfBytes b

/-- R222 to R226: the body of a tunnel request is what `TENC` answers for the outbound frame, and there is no
request when `TENC` answers none; its timeout becomes that of `TRANSACT`, 1000 ms when absent, and the
destination is not used; the classification of replies; a server's answers. -/
def Obligations.TunnelClassification : Prop :=
  (∀ (s : State) (ws : List Word) (d : Option RDesc) (t : Option Nat) (a : Option (List Byte)),
    (∀ b : List Byte, exec (.tenc ws d) s = .next (s.endOk 0x8#4 (.bytes b)) →
      TunnelRequest.ofFrame s.par.expandMaxWords ws d t a =
        some { body := b, timeoutMs := t, destination := a }) ∧
    (exec (.tenc ws d) s = .next (s.raiseError 0x8#4 .invalidInput) →
      TunnelRequest.ofFrame s.par.expandMaxWords ws d t a = none)) ∧
  (∀ (b : List Byte) (a : Option (List Byte)),
    (∀ n, TunnelRequest.operation { body := b, timeoutMs := some n, destination := a } =
      .transact b (.ms n)) ∧
    ∃ t, TunnelRequest.operation { body := b, timeoutMs := none, destination := a } =
        .transact b t ∧ Timeout.deadline t = Timeout.deadline (.ms 1000)) ∧
  (∀ body : List Byte,
    (body.length % 2 = 0 → classify (.response 200 body) = .frame (wordsOfBytes body)) ∧
    (body.length % 2 = 1 → classify (.response 200 body) = .failed .invalidFrame) ∧
    classify (.response 408 body) = .failed .receiveTimeout ∧
    ∀ status, status ≠ 200 → status ≠ 408 →
      classify (.response status body) = .interfaceError (some (status, body))) ∧
  classify .noResponse = classify (.response 408 []) ∧
  classify .connectionFailed = .interfaceError none ∧
  serverStatus (.error 0x6#4 .receiveTimeout) = 408 ∧
  ∀ b, serverReply (.ok 0x6#4 (.bytes b)) = .response 200 b

/-- R156, R157, R161, R162: an exit poll in a tick without the acknowledge stops both units, captures the words
before the first terminator or nothing, and then waits, or halts at once when `ABORT_ACK_TICKS` is 0. The
acknowledge of each tick and the count of the wait are the model's choice (log entry 8), that the held requests
end with `Fatal` is its inference (log entry 10), and `XFER_BUSY` is left open (log entry 7). -/
def Obligations.ExitPollWithoutAcknowledge : Prop :=
  ∀ (s : State) (c : Chip), s.tst = .inFlight → s.timer % s.par.pollTicks = 0 →
    (∃ j, j < s.par.rxSlots ∧ Memory.read s.rx.rxbuf j = terminator) ∨ s.timeout ≤ s.timer →
    ∃ u : State, tick c false s = .next u ∧
      (0 < s.par.abortAckTicks →
        u = { s with
          tst := u.tst
          captured := u.captured
          ackWait := 1
          xferBusy := u.xferBusy
          freeCount := u.freeCount
          tx := { s.tx with txst := .idle, lineOut := false }
          rx := { s.rx with rxst := .off } } ∧
        (∀ j, j < s.par.rxSlots → Memory.read s.rx.rxbuf j = terminator →
          (∀ i, i < j → Memory.read s.rx.rxbuf i ≠ terminator) →
          u.tst = .completed ∧ isResultOf s.rx j u.captured) ∧
        ((∀ i, i < s.par.rxSlots → Memory.read s.rx.rxbuf i ≠ terminator) →
          u.tst = .timedOut ∧ u.captured = [])) ∧
      (s.par.abortAckTicks = 0 →
        u = { s with
          tst := .halted
          captured := []
          ackWait := 0
          held := []
          outcome := 5
          xferBusy := u.xferBusy
          freeCount := u.freeCount
          tx := { s.tx with txst := .idle, lineOut := false }
          rx := { s.rx with rxst := .off }
          results := s.results ++ List.replicate (s.held.length + 1) (.error 0x6#4 .fatal) })

/-- R168 (a): with a deadline of 0 the first tick of an armed transaction ends it with `ReceiveTimeout`; nothing is
driven and no chip is consumed. That this tick is tick 0 and that teardown ends in it are the model's choice
(log entries 9 and 8), and so is arming a held request in the same step (log entry 11). -/
def Obligations.ZeroDeadlineEndsAtOnce : Prop :=
  ∀ (s : State) (c : Chip), s.Inv → s.tst = .armed → s.timeout = 0 →
    ∃ u : State, tick c true s = .next u ∧
      ServedFrom (({ s with
        timer := 0
        tx := { s.tx with txpos := 0, txidx := 0, txDone := false }
        rx := { s.rx with rxnb := 0, rxsr := 0 } } : State).returned 3
          (.error 0x6#4 .receiveTimeout)) u
end

