-- ==== Sys2Proof/Laws/State.lean ====
section
/-!
SUPPORT. One lemma for each field after each named update of the state, of the transmitter and of the receiver.
-/

namespace Sys2Proof.Machine

/-! ### State.reply -/

@[simp] theorem State.reply_par (s : State) (r : Response) : (s.reply r).par = s.par := rfl
@[simp] theorem State.reply_pcnt (s : State) (r : Response) : (s.reply r).pcnt = s.pcnt := rfl
@[simp] theorem State.reply_tx (s : State) (r : Response) : (s.reply r).tx = s.tx := rfl
@[simp] theorem State.reply_rx (s : State) (r : Response) : (s.reply r).rx = s.rx := rfl
@[simp] theorem State.reply_tst (s : State) (r : Response) : (s.reply r).tst = s.tst := rfl
@[simp] theorem State.reply_xferBusy (s : State) (r : Response) :
    (s.reply r).xferBusy = s.xferBusy := rfl
@[simp] theorem State.reply_perrcnt (s : State) (r : Response) :
    (s.reply r).perrcnt = s.perrcnt := rfl
@[simp] theorem State.reply_outcome (s : State) (r : Response) :
    (s.reply r).outcome = s.outcome := rfl
@[simp] theorem State.reply_timeout (s : State) (r : Response) :
    (s.reply r).timeout = s.timeout := rfl
@[simp] theorem State.reply_timer (s : State) (r : Response) : (s.reply r).timer = s.timer := rfl
@[simp] theorem State.reply_captured (s : State) (r : Response) :
    (s.reply r).captured = s.captured := rfl
@[simp] theorem State.reply_ackWait (s : State) (r : Response) :
    (s.reply r).ackWait = s.ackWait := rfl
@[simp] theorem State.reply_held (s : State) (r : Response) : (s.reply r).held = s.held := rfl
@[simp] theorem State.reply_inputs (s : State) (r : Response) : (s.reply r).inputs = s.inputs := rfl
@[simp] theorem State.reply_results (s : State) (r : Response) :
    (s.reply r).results = s.results ++ [r] := rfl
@[simp] theorem State.reply_freeCount (s : State) (r : Response) :
    (s.reply r).freeCount = s.freeCount := rfl

/-! ### State.endOk -/

@[simp] theorem State.endOk_par (s : State) (op : BitVec 4) (v : OpValue) :
    (s.endOk op v).par = s.par := rfl
@[simp] theorem State.endOk_pcnt (s : State) (op : BitVec 4) (v : OpValue) :
    (s.endOk op v).pcnt = s.pcnt := rfl
@[simp] theorem State.endOk_tx (s : State) (op : BitVec 4) (v : OpValue) :
    (s.endOk op v).tx = s.tx := rfl
@[simp] theorem State.endOk_rx (s : State) (op : BitVec 4) (v : OpValue) :
    (s.endOk op v).rx = s.rx := rfl
@[simp] theorem State.endOk_tst (s : State) (op : BitVec 4) (v : OpValue) :
    (s.endOk op v).tst = s.tst := rfl
@[simp] theorem State.endOk_xferBusy (s : State) (op : BitVec 4) (v : OpValue) :
    (s.endOk op v).xferBusy = s.xferBusy := rfl
@[simp] theorem State.endOk_perrcnt (s : State) (op : BitVec 4) (v : OpValue) :
    (s.endOk op v).perrcnt = s.perrcnt := rfl
@[simp] theorem State.endOk_outcome (s : State) (op : BitVec 4) (v : OpValue) :
    (s.endOk op v).outcome = 0 := rfl
@[simp] theorem State.endOk_timeout (s : State) (op : BitVec 4) (v : OpValue) :
    (s.endOk op v).timeout = s.timeout := rfl
@[simp] theorem State.endOk_timer (s : State) (op : BitVec 4) (v : OpValue) :
    (s.endOk op v).timer = s.timer := rfl
@[simp] theorem State.endOk_captured (s : State) (op : BitVec 4) (v : OpValue) :
    (s.endOk op v).captured = s.captured := rfl
@[simp] theorem State.endOk_ackWait (s : State) (op : BitVec 4) (v : OpValue) :
    (s.endOk op v).ackWait = s.ackWait := rfl
@[simp] theorem State.endOk_held (s : State) (op : BitVec 4) (v : OpValue) :
    (s.endOk op v).held = s.held := rfl
@[simp] theorem State.endOk_inputs (s : State) (op : BitVec 4) (v : OpValue) :
    (s.endOk op v).inputs = s.inputs := rfl
@[simp] theorem State.endOk_results (s : State) (op : BitVec 4) (v : OpValue) :
    (s.endOk op v).results = s.results ++ [.ok op v] := rfl
@[simp] theorem State.endOk_freeCount (s : State) (op : BitVec 4) (v : OpValue) :
    (s.endOk op v).freeCount = s.freeCount := rfl

/-! ### State.raiseError -/

@[simp] theorem State.raiseError_par (s : State) (op : BitVec 4) (k : ErrKind) :
    (s.raiseError op k).par = s.par := rfl
@[simp] theorem State.raiseError_pcnt (s : State) (op : BitVec 4) (k : ErrKind) :
    (s.raiseError op k).pcnt = s.pcnt := rfl
@[simp] theorem State.raiseError_tx (s : State) (op : BitVec 4) (k : ErrKind) :
    (s.raiseError op k).tx = s.tx := rfl
@[simp] theorem State.raiseError_rx (s : State) (op : BitVec 4) (k : ErrKind) :
    (s.raiseError op k).rx = s.rx := rfl
@[simp] theorem State.raiseError_tst (s : State) (op : BitVec 4) (k : ErrKind) :
    (s.raiseError op k).tst = s.tst := rfl
@[simp] theorem State.raiseError_xferBusy (s : State) (op : BitVec 4) (k : ErrKind) :
    (s.raiseError op k).xferBusy = s.xferBusy := rfl
@[simp] theorem State.raiseError_perrcnt (s : State) (op : BitVec 4) (k : ErrKind) :
    (s.raiseError op k).perrcnt = s.perrcnt := rfl
@[simp] theorem State.raiseError_outcome (s : State) (op : BitVec 4) (k : ErrKind) :
    (s.raiseError op k).outcome = k.code := rfl
@[simp] theorem State.raiseError_timeout (s : State) (op : BitVec 4) (k : ErrKind) :
    (s.raiseError op k).timeout = s.timeout := rfl
@[simp] theorem State.raiseError_timer (s : State) (op : BitVec 4) (k : ErrKind) :
    (s.raiseError op k).timer = s.timer := rfl
@[simp] theorem State.raiseError_captured (s : State) (op : BitVec 4) (k : ErrKind) :
    (s.raiseError op k).captured = s.captured := rfl
@[simp] theorem State.raiseError_ackWait (s : State) (op : BitVec 4) (k : ErrKind) :
    (s.raiseError op k).ackWait = s.ackWait := rfl
@[simp] theorem State.raiseError_held (s : State) (op : BitVec 4) (k : ErrKind) :
    (s.raiseError op k).held = s.held := rfl
@[simp] theorem State.raiseError_inputs (s : State) (op : BitVec 4) (k : ErrKind) :
    (s.raiseError op k).inputs = s.inputs := rfl
@[simp] theorem State.raiseError_results (s : State) (op : BitVec 4) (k : ErrKind) :
    (s.raiseError op k).results = s.results ++ [.error op k] := rfl
@[simp] theorem State.raiseError_freeCount (s : State) (op : BitVec 4) (k : ErrKind) :
    (s.raiseError op k).freeCount = s.freeCount := rfl

/-! ### State.countMismatch -/

@[simp] theorem State.countMismatch_par (s : State) (b : Bool) :
    (s.countMismatch b).par = s.par := rfl
@[simp] theorem State.countMismatch_pcnt (s : State) (b : Bool) :
    (s.countMismatch b).pcnt = s.pcnt := rfl
@[simp] theorem State.countMismatch_tx (s : State) (b : Bool) : (s.countMismatch b).tx = s.tx := rfl
@[simp] theorem State.countMismatch_rx (s : State) (b : Bool) : (s.countMismatch b).rx = s.rx := rfl
@[simp] theorem State.countMismatch_tst (s : State) (b : Bool) :
    (s.countMismatch b).tst = s.tst := rfl
@[simp] theorem State.countMismatch_xferBusy (s : State) (b : Bool) :
    (s.countMismatch b).xferBusy = s.xferBusy := rfl
@[simp] theorem State.countMismatch_perrcnt (s : State) (b : Bool) :
    (s.countMismatch b).perrcnt = if b then saturatingInc s.perrcnt else s.perrcnt := rfl
@[simp] theorem State.countMismatch_outcome (s : State) (b : Bool) :
    (s.countMismatch b).outcome = s.outcome := rfl
@[simp] theorem State.countMismatch_timeout (s : State) (b : Bool) :
    (s.countMismatch b).timeout = s.timeout := rfl
@[simp] theorem State.countMismatch_timer (s : State) (b : Bool) :
    (s.countMismatch b).timer = s.timer := rfl
@[simp] theorem State.countMismatch_captured (s : State) (b : Bool) :
    (s.countMismatch b).captured = s.captured := rfl
@[simp] theorem State.countMismatch_ackWait (s : State) (b : Bool) :
    (s.countMismatch b).ackWait = s.ackWait := rfl
@[simp] theorem State.countMismatch_held (s : State) (b : Bool) :
    (s.countMismatch b).held = s.held := rfl
@[simp] theorem State.countMismatch_inputs (s : State) (b : Bool) :
    (s.countMismatch b).inputs = s.inputs := rfl
@[simp] theorem State.countMismatch_results (s : State) (b : Bool) :
    (s.countMismatch b).results = s.results := rfl
@[simp] theorem State.countMismatch_freeCount (s : State) (b : Bool) :
    (s.countMismatch b).freeCount = s.freeCount := rfl

/-! ### State.start -/

@[simp] theorem State.start_par (s : State) : (s.start).par = s.par := rfl
@[simp] theorem State.start_pcnt (s : State) : (s.start).pcnt = s.pcnt := rfl
@[simp] theorem State.start_tx (s : State) : (s.start).tx = s.tx.begin := rfl
@[simp] theorem State.start_rx (s : State) : (s.start).rx = s.rx.begin := rfl
@[simp] theorem State.start_tst (s : State) : (s.start).tst = .inFlight := rfl
@[simp] theorem State.start_xferBusy (s : State) : (s.start).xferBusy = s.xferBusy := rfl
@[simp] theorem State.start_perrcnt (s : State) : (s.start).perrcnt = s.perrcnt := rfl
@[simp] theorem State.start_outcome (s : State) : (s.start).outcome = s.outcome := rfl
@[simp] theorem State.start_timeout (s : State) : (s.start).timeout = s.timeout := rfl
@[simp] theorem State.start_timer (s : State) : (s.start).timer = 0 := rfl
@[simp] theorem State.start_captured (s : State) : (s.start).captured = s.captured := rfl
@[simp] theorem State.start_ackWait (s : State) : (s.start).ackWait = s.ackWait := rfl
@[simp] theorem State.start_held (s : State) : (s.start).held = s.held := rfl
@[simp] theorem State.start_inputs (s : State) : (s.start).inputs = s.inputs := rfl
@[simp] theorem State.start_results (s : State) : (s.start).results = s.results := rfl
@[simp] theorem State.start_freeCount (s : State) : (s.start).freeCount = s.freeCount := rfl

/-! ### State.stopUnits -/

@[simp] theorem State.stopUnits_par (s : State) : (s.stopUnits).par = s.par := rfl
@[simp] theorem State.stopUnits_pcnt (s : State) : (s.stopUnits).pcnt = s.pcnt := rfl
@[simp] theorem State.stopUnits_tx (s : State) : (s.stopUnits).tx = s.tx.halt := rfl
@[simp] theorem State.stopUnits_rx (s : State) : (s.stopUnits).rx = s.rx.halt := rfl
@[simp] theorem State.stopUnits_tst (s : State) : (s.stopUnits).tst = s.tst := rfl
@[simp] theorem State.stopUnits_xferBusy (s : State) : (s.stopUnits).xferBusy = s.xferBusy := rfl
@[simp] theorem State.stopUnits_perrcnt (s : State) : (s.stopUnits).perrcnt = s.perrcnt := rfl
@[simp] theorem State.stopUnits_outcome (s : State) : (s.stopUnits).outcome = s.outcome := rfl
@[simp] theorem State.stopUnits_timeout (s : State) : (s.stopUnits).timeout = s.timeout := rfl
@[simp] theorem State.stopUnits_timer (s : State) : (s.stopUnits).timer = s.timer := rfl
@[simp] theorem State.stopUnits_captured (s : State) : (s.stopUnits).captured = s.captured := rfl
@[simp] theorem State.stopUnits_ackWait (s : State) : (s.stopUnits).ackWait = s.ackWait := rfl
@[simp] theorem State.stopUnits_held (s : State) : (s.stopUnits).held = s.held := rfl
@[simp] theorem State.stopUnits_inputs (s : State) : (s.stopUnits).inputs = s.inputs := rfl
@[simp] theorem State.stopUnits_results (s : State) : (s.stopUnits).results = s.results := rfl
@[simp] theorem State.stopUnits_freeCount (s : State) : (s.stopUnits).freeCount = s.freeCount := rfl

/-! ### State.goFatal -/

@[simp] theorem State.goFatal_par (s : State) : (s.goFatal).par = s.par := rfl
@[simp] theorem State.goFatal_pcnt (s : State) : (s.goFatal).pcnt = s.pcnt := rfl
@[simp] theorem State.goFatal_tx (s : State) : (s.goFatal).tx = s.tx := rfl
@[simp] theorem State.goFatal_rx (s : State) : (s.goFatal).rx = s.rx := rfl
@[simp] theorem State.goFatal_tst (s : State) : (s.goFatal).tst = .halted := rfl
@[simp] theorem State.goFatal_xferBusy (s : State) : (s.goFatal).xferBusy = s.xferBusy := rfl
@[simp] theorem State.goFatal_perrcnt (s : State) : (s.goFatal).perrcnt = s.perrcnt := rfl
@[simp] theorem State.goFatal_outcome (s : State) : (s.goFatal).outcome = ErrKind.fatal.code := rfl
@[simp] theorem State.goFatal_timeout (s : State) : (s.goFatal).timeout = s.timeout := rfl
@[simp] theorem State.goFatal_timer (s : State) : (s.goFatal).timer = s.timer := rfl
@[simp] theorem State.goFatal_captured (s : State) : (s.goFatal).captured = [] := rfl
@[simp] theorem State.goFatal_ackWait (s : State) : (s.goFatal).ackWait = s.ackWait := rfl
@[simp] theorem State.goFatal_held (s : State) : (s.goFatal).held = [] := rfl
@[simp] theorem State.goFatal_inputs (s : State) : (s.goFatal).inputs = s.inputs := rfl
@[simp] theorem State.goFatal_results (s : State) :
    (s.goFatal).results = s.results ++ .error 0x6#4 .fatal :: s.held.map fun _ => .error 0x6#4 .fatal := rfl
@[simp] theorem State.goFatal_freeCount (s : State) : (s.goFatal).freeCount = s.freeCount := rfl

/-! ### State.ackWithheld -/

@[simp] theorem State.ackWithheld_par (s : State) : (s.ackWithheld).par = s.par := rfl
@[simp] theorem State.ackWithheld_pcnt (s : State) : (s.ackWithheld).pcnt = s.pcnt := rfl
@[simp] theorem State.ackWithheld_tx (s : State) : (s.ackWithheld).tx = s.tx := rfl
@[simp] theorem State.ackWithheld_rx (s : State) : (s.ackWithheld).rx = s.rx := rfl
@[simp] theorem State.ackWithheld_tst (s : State) : (s.ackWithheld).tst = s.tst := rfl
@[simp] theorem State.ackWithheld_xferBusy (s : State) :
    (s.ackWithheld).xferBusy = Config.freeXferBusy s.freeCount := rfl
@[simp] theorem State.ackWithheld_perrcnt (s : State) : (s.ackWithheld).perrcnt = s.perrcnt := rfl
@[simp] theorem State.ackWithheld_outcome (s : State) : (s.ackWithheld).outcome = s.outcome := rfl
@[simp] theorem State.ackWithheld_timeout (s : State) : (s.ackWithheld).timeout = s.timeout := rfl
@[simp] theorem State.ackWithheld_timer (s : State) : (s.ackWithheld).timer = s.timer := rfl
@[simp] theorem State.ackWithheld_captured (s : State) :
    (s.ackWithheld).captured = s.captured := rfl
@[simp] theorem State.ackWithheld_ackWait (s : State) : (s.ackWithheld).ackWait = s.ackWait := rfl
@[simp] theorem State.ackWithheld_held (s : State) : (s.ackWithheld).held = s.held := rfl
@[simp] theorem State.ackWithheld_inputs (s : State) : (s.ackWithheld).inputs = s.inputs := rfl
@[simp] theorem State.ackWithheld_results (s : State) : (s.ackWithheld).results = s.results := rfl
@[simp] theorem State.ackWithheld_freeCount (s : State) :
    (s.ackWithheld).freeCount = s.freeCount + 1 := rfl

/-! ### State.exitPoll -/

@[simp] theorem State.exitPoll_par (s : State) (x : TState) (b : List Byte) :
    (s.exitPoll x b).par = s.par := rfl
@[simp] theorem State.exitPoll_pcnt (s : State) (x : TState) (b : List Byte) :
    (s.exitPoll x b).pcnt = s.pcnt := rfl
@[simp] theorem State.exitPoll_tx (s : State) (x : TState) (b : List Byte) :
    (s.exitPoll x b).tx = s.tx.halt := rfl
@[simp] theorem State.exitPoll_rx (s : State) (x : TState) (b : List Byte) :
    (s.exitPoll x b).rx = s.rx.halt := rfl
@[simp] theorem State.exitPoll_tst (s : State) (x : TState) (b : List Byte) :
    (s.exitPoll x b).tst = x := rfl
@[simp] theorem State.exitPoll_xferBusy (s : State) (x : TState) (b : List Byte) :
    (s.exitPoll x b).xferBusy = s.xferBusy := rfl
@[simp] theorem State.exitPoll_perrcnt (s : State) (x : TState) (b : List Byte) :
    (s.exitPoll x b).perrcnt = s.perrcnt := rfl
@[simp] theorem State.exitPoll_outcome (s : State) (x : TState) (b : List Byte) :
    (s.exitPoll x b).outcome = s.outcome := rfl
@[simp] theorem State.exitPoll_timeout (s : State) (x : TState) (b : List Byte) :
    (s.exitPoll x b).timeout = s.timeout := rfl
@[simp] theorem State.exitPoll_timer (s : State) (x : TState) (b : List Byte) :
    (s.exitPoll x b).timer = s.timer := rfl
@[simp] theorem State.exitPoll_captured (s : State) (x : TState) (b : List Byte) :
    (s.exitPoll x b).captured = b := rfl
@[simp] theorem State.exitPoll_ackWait (s : State) (x : TState) (b : List Byte) :
    (s.exitPoll x b).ackWait = 0 := rfl
@[simp] theorem State.exitPoll_held (s : State) (x : TState) (b : List Byte) :
    (s.exitPoll x b).held = s.held := rfl
@[simp] theorem State.exitPoll_inputs (s : State) (x : TState) (b : List Byte) :
    (s.exitPoll x b).inputs = s.inputs := rfl
@[simp] theorem State.exitPoll_results (s : State) (x : TState) (b : List Byte) :
    (s.exitPoll x b).results = s.results := rfl
@[simp] theorem State.exitPoll_freeCount (s : State) (x : TState) (b : List Byte) :
    (s.exitPoll x b).freeCount = s.freeCount := rfl

/-! ### State.quietTick -/

@[simp] theorem State.quietTick_par (s : State) : (s.quietTick).par = s.par := rfl
@[simp] theorem State.quietTick_pcnt (s : State) : (s.quietTick).pcnt = s.pcnt := rfl
@[simp] theorem State.quietTick_tx (s : State) :
    (s.quietTick).tx = { s.tx with lineOut := false } := rfl
@[simp] theorem State.quietTick_rx (s : State) : (s.quietTick).rx = s.rx := rfl
@[simp] theorem State.quietTick_tst (s : State) : (s.quietTick).tst = s.tst := rfl
@[simp] theorem State.quietTick_xferBusy (s : State) : (s.quietTick).xferBusy = s.xferBusy := rfl
@[simp] theorem State.quietTick_perrcnt (s : State) : (s.quietTick).perrcnt = s.perrcnt := rfl
@[simp] theorem State.quietTick_outcome (s : State) : (s.quietTick).outcome = s.outcome := rfl
@[simp] theorem State.quietTick_timeout (s : State) : (s.quietTick).timeout = s.timeout := rfl
@[simp] theorem State.quietTick_timer (s : State) : (s.quietTick).timer = s.timer := rfl
@[simp] theorem State.quietTick_captured (s : State) : (s.quietTick).captured = s.captured := rfl
@[simp] theorem State.quietTick_ackWait (s : State) : (s.quietTick).ackWait = s.ackWait := rfl
@[simp] theorem State.quietTick_held (s : State) : (s.quietTick).held = s.held := rfl
@[simp] theorem State.quietTick_inputs (s : State) : (s.quietTick).inputs = s.inputs := rfl
@[simp] theorem State.quietTick_results (s : State) : (s.quietTick).results = s.results := rfl
@[simp] theorem State.quietTick_freeCount (s : State) : (s.quietTick).freeCount = s.freeCount := rfl

/-! ### State.arm -/

@[simp] theorem State.arm_par (s : State) (r : TransactReq) : (s.arm r).par = s.par := rfl
@[simp] theorem State.arm_pcnt (s : State) (r : TransactReq) :
    (s.arm r).pcnt = BitVec.ofNat 4 (Config.freePcnt s.freeCount).val := rfl
@[simp] theorem State.arm_tx (s : State) (r : TransactReq) :
    (s.arm r).tx = { s.tx with txbuf := Memory.writeList s.tx.txbuf 0 ((wordsOfBytes r.bytes).map wencWord), txcnt := BitVec.ofNat 16 (r.bytes.length / 2 - 1), txDone := false } := rfl
@[simp] theorem State.arm_rx (s : State) (r : TransactReq) :
    (s.arm r).rx = { s.rx with rxbuf := Memory.cleared, rxwp := 0 } := rfl
@[simp] theorem State.arm_tst (s : State) (r : TransactReq) : (s.arm r).tst = .armed := rfl
@[simp] theorem State.arm_xferBusy (s : State) (r : TransactReq) :
    (s.arm r).xferBusy = s.xferBusy := rfl
@[simp] theorem State.arm_perrcnt (s : State) (r : TransactReq) :
    (s.arm r).perrcnt = s.perrcnt := rfl
@[simp] theorem State.arm_outcome (s : State) (r : TransactReq) :
    (s.arm r).outcome = s.outcome := rfl
@[simp] theorem State.arm_timeout (s : State) (r : TransactReq) :
    (s.arm r).timeout = r.deadline := rfl
@[simp] theorem State.arm_timer (s : State) (r : TransactReq) : (s.arm r).timer = s.timer := rfl
@[simp] theorem State.arm_captured (s : State) (r : TransactReq) :
    (s.arm r).captured = s.captured := rfl
@[simp] theorem State.arm_ackWait (s : State) (r : TransactReq) :
    (s.arm r).ackWait = s.ackWait := rfl
@[simp] theorem State.arm_held (s : State) (r : TransactReq) : (s.arm r).held = s.held := rfl
@[simp] theorem State.arm_inputs (s : State) (r : TransactReq) : (s.arm r).inputs = s.inputs := rfl
@[simp] theorem State.arm_results (s : State) (r : TransactReq) :
    (s.arm r).results = s.results := rfl
@[simp] theorem State.arm_freeCount (s : State) (r : TransactReq) :
    (s.arm r).freeCount = s.freeCount + 1 := rfl

/-! ### State.rst -/

@[simp] theorem State.rst_par (s : State) : (s.rst).par = s.par := rfl
@[simp] theorem State.rst_pcnt (s : State) : (s.rst).pcnt = 0 := rfl
@[simp] theorem State.rst_tx (s : State) : (s.rst).tx = TxUnit.reset := rfl
@[simp] theorem State.rst_rx (s : State) : (s.rst).rx = RxUnit.reset := rfl
@[simp] theorem State.rst_tst (s : State) : (s.rst).tst = .idle := rfl
@[simp] theorem State.rst_xferBusy (s : State) : (s.rst).xferBusy = false := rfl
@[simp] theorem State.rst_perrcnt (s : State) : (s.rst).perrcnt = 0 := rfl
@[simp] theorem State.rst_outcome (s : State) : (s.rst).outcome = 0 := rfl
@[simp] theorem State.rst_timeout (s : State) : (s.rst).timeout = 0 := rfl
@[simp] theorem State.rst_timer (s : State) : (s.rst).timer = 0 := rfl
@[simp] theorem State.rst_captured (s : State) : (s.rst).captured = [] := rfl
@[simp] theorem State.rst_ackWait (s : State) : (s.rst).ackWait = 0 := rfl
@[simp] theorem State.rst_held (s : State) : (s.rst).held = [] := rfl
@[simp] theorem State.rst_inputs (s : State) : (s.rst).inputs = s.inputs := rfl
@[simp] theorem State.rst_results (s : State) : (s.rst).results = s.results := rfl
@[simp] theorem State.rst_freeCount (s : State) : (s.rst).freeCount = s.freeCount := rfl

/-! ### TxUnit.begin -/

@[simp] theorem TxUnit.begin_txst (tx : TxUnit) : tx.begin.txst = .sync := rfl
@[simp] theorem TxUnit.begin_txsr (tx : TxUnit) : tx.begin.txsr = tx.txsr := rfl
@[simp] theorem TxUnit.begin_txcnt (tx : TxUnit) : tx.begin.txcnt = tx.txcnt := rfl
@[simp] theorem TxUnit.begin_txidx (tx : TxUnit) : tx.begin.txidx = 0 := rfl
@[simp] theorem TxUnit.begin_txpos (tx : TxUnit) : tx.begin.txpos = 0 := rfl
@[simp] theorem TxUnit.begin_txDone (tx : TxUnit) : tx.begin.txDone = false := rfl
@[simp] theorem TxUnit.begin_lineOut (tx : TxUnit) : tx.begin.lineOut = tx.lineOut := rfl
@[simp] theorem TxUnit.begin_txbuf (tx : TxUnit) : tx.begin.txbuf = tx.txbuf := rfl

/-! ### TxUnit.halt -/

@[simp] theorem TxUnit.halt_txst (tx : TxUnit) : tx.halt.txst = .idle := rfl
@[simp] theorem TxUnit.halt_txsr (tx : TxUnit) : tx.halt.txsr = tx.txsr := rfl
@[simp] theorem TxUnit.halt_txcnt (tx : TxUnit) : tx.halt.txcnt = tx.txcnt := rfl
@[simp] theorem TxUnit.halt_txidx (tx : TxUnit) : tx.halt.txidx = tx.txidx := rfl
@[simp] theorem TxUnit.halt_txpos (tx : TxUnit) : tx.halt.txpos = tx.txpos := rfl
@[simp] theorem TxUnit.halt_txDone (tx : TxUnit) : tx.halt.txDone = tx.txDone := rfl
@[simp] theorem TxUnit.halt_lineOut (tx : TxUnit) : tx.halt.lineOut = false := rfl
@[simp] theorem TxUnit.halt_txbuf (tx : TxUnit) : tx.halt.txbuf = tx.txbuf := rfl

/-! ### RxUnit.begin -/

@[simp] theorem RxUnit.begin_rxst (rx : RxUnit) : rx.begin.rxst = .quiet := rfl
@[simp] theorem RxUnit.begin_rxsr (rx : RxUnit) : rx.begin.rxsr = 0 := rfl
@[simp] theorem RxUnit.begin_rxnb (rx : RxUnit) : rx.begin.rxnb = 0 := rfl
@[simp] theorem RxUnit.begin_rxa (rx : RxUnit) : rx.begin.rxa = rx.rxa := rfl
@[simp] theorem RxUnit.begin_rxwp (rx : RxUnit) : rx.begin.rxwp = rx.rxwp := rfl
@[simp] theorem RxUnit.begin_rxbuf (rx : RxUnit) : rx.begin.rxbuf = rx.rxbuf := rfl

/-! ### RxUnit.halt -/

@[simp] theorem RxUnit.halt_rxst (rx : RxUnit) : rx.halt.rxst = .off := rfl
@[simp] theorem RxUnit.halt_rxsr (rx : RxUnit) : rx.halt.rxsr = rx.rxsr := rfl
@[simp] theorem RxUnit.halt_rxnb (rx : RxUnit) : rx.halt.rxnb = rx.rxnb := rfl
@[simp] theorem RxUnit.halt_rxa (rx : RxUnit) : rx.halt.rxa = rx.rxa := rfl
@[simp] theorem RxUnit.halt_rxwp (rx : RxUnit) : rx.halt.rxwp = rx.rxwp := rfl
@[simp] theorem RxUnit.halt_rxbuf (rx : RxUnit) : rx.halt.rxbuf = rx.rxbuf := rfl

/-! ### State.giveBack -/

/-- Returning to `Idle` changes only `TST`, `XFER_BUSY`, the captured bytes, `OUTCOME` and the results (R163). -/
theorem State.giveBack_eq (s : State) :
    s.giveBack =
      { s with
        tst := .idle, xferBusy := false, captured := []
        outcome := if s.tst = .completed then 0 else ErrKind.receiveTimeout.code
        results := s.results ++
          [if s.tst = .completed then .ok 0x6#4 (.bytes s.captured)
           else .error 0x6#4 .receiveTimeout] } := by
  unfold State.giveBack
  split <;> rfl

@[simp] theorem State.returned_par (s : State) (code : BitVec 16) (r : Response) :
    (s.returned code r).par = s.par := rfl
@[simp] theorem State.returned_held (s : State) (code : BitVec 16) (r : Response) :
    (s.returned code r).held = s.held := rfl
@[simp] theorem State.returned_tst (s : State) (code : BitVec 16) (r : Response) :
    (s.returned code r).tst = .idle := rfl
@[simp] theorem State.returned_results (s : State) (code : BitVec 16) (r : Response) :
    (s.returned code r).results = s.results ++ [r] := rfl

/-- An exit poll that completed, acknowledged in its tick (R157, R163). -/
theorem State.giveBack_exitPoll_completed (s : State) (b : List Byte) :
    (s.exitPoll .completed b).giveBack = s.returned 0 (.ok 0x6#4 (.bytes b)) := rfl
/-- An exit poll that timed out, acknowledged in its tick (R158, R163). -/
theorem State.giveBack_exitPoll_timedOut (s : State) (b : List Byte) :
    (s.exitPoll .timedOut b).giveBack = s.returned 3 (.error 0x6#4 .receiveTimeout) := rfl

end Sys2Proof.Machine
end

