-- ==== Sys2Proof/Laws/Codec.lean ====
section
/-!
SUPPORT. Words, bytes, chips and containers: what packing and unpacking give back.
-/

namespace Sys2Proof.Machine

/-- A word built from two bytes, as a number (R67). -/
theorem toNat_wordOfBytes (b0 b1 : Byte) :
    (wordOfBytes b0 b1).toNat = b0.toNat + 256 * b1.toNat := by
  have h0 := b0.isLt
  unfold wordOfBytes
  show (b1 ++ b0 : BitVec (8 + 8)).toNat = _
  rw [BitVec.toNat_append, Nat.shiftLeft_eq, Nat.mul_comm, ← Nat.two_pow_add_eq_or_of_lt h0]
  omega

/-- The low byte of a word, as a number (R63). -/
theorem toNat_lowByte (w : Word) : (w.extractLsb' 0 8).toNat = w.toNat % 256 := by
  simp [BitVec.extractLsb'_toNat]

/-- The high byte of a word, as a number (R63). -/
theorem toNat_highByte (w : Word) : (w.extractLsb' 8 8).toNat = w.toNat / 256 := by
  have := w.isLt
  simp only [BitVec.extractLsb'_toNat, Nat.shiftRight_eq_div_pow]
  omega

/-- Joining the two bytes of a word gives the word (R63, R67). -/
theorem wordOfBytes_split (w : Word) :
    wordOfBytes (w.extractLsb' 0 8) (w.extractLsb' 8 8) = w := by
  apply BitVec.eq_of_toNat_eq
  rw [toNat_wordOfBytes, toNat_lowByte, toNat_highByte]
  omega

/-- The bytes of a frame, word by word (R63). -/
@[simp] theorem tbytes_nil : tbytes [] = [] := rfl

@[simp] theorem tbytes_cons (w : Word) (ws : List Word) :
    tbytes (w :: ws) = w.extractLsb' 0 8 :: w.extractLsb' 8 8 :: tbytes ws := rfl

/-- Two bytes for each word (R63). -/
@[simp] theorem length_tbytes (ws : List Word) : (tbytes ws).length = 2 * ws.length := by
  induction ws with
  | nil => rfl
  | cons w ws ih => simp [ih]; omega

/-- A payload has ten bits. -/
@[simp] theorem length_payloadBits (d : Payload) : (payloadBits d).length = 10 := rfl

/-- The pattern of an encoded word has 24 chips (R92). -/
@[simp] theorem length_wordPattern (d : Payload) : (wordPattern d).length = 24 := rfl

/-- A container gives 24 chips (R94). -/
@[simp] theorem length_chips24 (c : Container) : (chips24 c).length = 24 := by
  simp [chips24]

/-- A bit number read most significant first, one bit longer (R93). -/
theorem bitsToNat_append (l : List Bool) (b : Bool) :
    bitsToNat (l ++ [b]) = 2 * bitsToNat l + b.toNat := by
  simp [bitsToNat]

/-- A bit number of `n` bits is below `2 ^ n`. -/
theorem bitsToNat_lt (l : List Bool) : bitsToNat l < 2 ^ l.length := by
  induction l using List.reverseRecOn with
  | nil => simp [bitsToNat]
  | append_singleton l b ih =>
    rw [bitsToNat_append, List.length_append, List.length_singleton, Nat.pow_succ]
    cases b <;> (simp; omega)

/-- Bit `i` of a bit number is the bit that stands `i` places before the end. -/
theorem testBit_bitsToNat (l : List Bool) (i : Nat) (h : i < l.length) :
    (bitsToNat l).testBit i = l[l.length - 1 - i] := by
  induction l using List.reverseRecOn generalizing i with
  | nil => simp at h
  | append_singleton l b ih =>
    rw [bitsToNat_append]
    cases i with
    | zero => cases b <;> simp [Nat.testBit_zero]
    | succ i =>
      have hi : i < l.length := by simpa using h
      have hd : (2 * bitsToNat l + b.toNat) / 2 = bitsToNat l := by
        have := b.toNat_lt
        omega
      rw [Nat.testBit_succ, hd, ih i hi, List.getElem_append_left]
      · congr 1; simp; omega
      · simp; omega

/-- `chips24` gives back the 24 chips that `left_pack` packed (R94). -/
theorem chips24_leftPack (l : List Chip) (h : l.length = 24) : chips24 (leftPack l) = l := by
  apply List.ext_getElem
  · simp [h]
  intro j h1 h2
  have hj : j < 24 := by omega
  have hlt := bitsToNat_lt l
  rw [h] at hlt
  simp only [chips24, List.getElem_map, List.getElem_range, leftPack, BitVec.getLsbD_ofNat]
  have hs : bitsToNat l * 256 = bitsToNat l <<< 8 := by rw [Nat.shiftLeft_eq]
  rw [hs, Nat.testBit_shiftLeft]
  have e1 : 31 - j < 32 := by omega
  have e2 : 31 - j ≥ 8 := by omega
  simp only [e1, e2, decide_true, Bool.true_and]
  rw [testBit_bitsToNat l _ (by omega)]
  congr 1
  omega

/-- Word `k` of a frame is at bytes `2k` (low) and `2k + 1` (high) of its byte form (R63). -/
theorem getElem?_tbytes (ws : List Word) (k : Nat) (v : Word) (h : ws[k]? = some v) :
    (tbytes ws)[2 * k]? = some (v.extractLsb' 0 8) ∧
      (tbytes ws)[2 * k + 1]? = some (v.extractLsb' 8 8) := by
  induction ws generalizing k with
  | nil => simp at h
  | cons w ws ih =>
    cases k with
    | zero => simp at h; subst h; simp
    | succ k =>
      have e : 2 * (k + 1) = 2 * k + 1 + 1 := by omega
      have := ih k (by simpa using h)
      rw [tbytes_cons, e]
      simpa using this

/-- Word `k` of a byte stream is made of bytes `2k` and `2k + 1`, the low byte first (R67). -/
theorem getElem?_wordsOfBytes (b : List Byte) (k : Nat) (b0 b1 : Byte) (h : b[2 * k]? = some b0)
    (h' : b[2 * k + 1]? = some b1) :
    (wordsOfBytes b)[k]? = some (BitVec.ofNat 16 (b0.toNat + 256 * b1.toNat)) := by
  induction k generalizing b with
  | zero =>
    match b with
    | [] => simp at h
    | [_] => simp at h'
    | x :: y :: r =>
      simp at h h'
      subst h h'
      simp only [wordsOfBytes, List.getElem?_cons_zero, Option.some.injEq]
      apply BitVec.eq_of_toNat_eq
      rw [toNat_wordOfBytes, BitVec.toNat_ofNat]
      have := x.isLt
      have := y.isLt
      omega
  | succ k ih =>
    match b with
    | [] => simp at h
    | [_] => simp at h'
    | x :: y :: r =>
      have e : 2 * (k + 1) = 2 * k + 1 + 1 := by omega
      rw [e] at h h'
      simp at h h'
      simp [wordsOfBytes, ih r h h']

/-- No word encodes to 0: the start marker is in every container (R61). -/
theorem wencWord_ne_zero (v : Word) : wencWord v ≠ 0 := by
  have key : ∀ d : Payload, (leftPack (wordPattern d)).getLsbD 30 = true := by decide +kernel
  intro h
  have := key (payload v)
  rw [show leftPack (wordPattern (payload v)) = wencWord v from rfl, h] at this
  simp at this

end Sys2Proof.Machine
end

