-- ==== Sys2Proof/Laws/Memory.lean ====
section
/-!
SUPPORT. The buffers: reading after writing, the canonical form, and the search for the terminator.
-/

namespace Sys2Proof.Machine

/-- Writing leaves every other slot alone. -/
theorem Memory.read_write_other {w : Nat} (m : SlotMem w) (i j : Nat) (v : BitVec w) (h : j ≠ i) :
    Memory.read (Memory.write m i v) j = Memory.read m j := by
  induction m with
  | nil => unfold Memory.write; split <;> simp_all [Memory.read, Ne.symm]
  | cons e m ih =>
    obtain ⟨k, x⟩ := e
    unfold Memory.write
    split
    · split <;> simp [Memory.read, Ne.symm h]
    · split
      · subst i; split <;> simp [Memory.read, Ne.symm h]
      · simp [Memory.read, ih]

/-- In canonical form nothing is listed below the lower bound. -/
theorem Memory.read_below {w : Nat} (m : SlotMem w) (lo i : Nat)
    (hwf : Memory.wfFrom lo m = true) (h : i < lo) : Memory.read m i = 0 := by
  induction m generalizing lo with
  | nil => rfl
  | cons e m ih =>
    obtain ⟨k, x⟩ := e
    simp only [Memory.wfFrom, Bool.and_eq_true, decide_eq_true_eq] at hwf
    have hk : k ≠ i := by omega
    simp [Memory.read, hk, ih (k + 1) hwf.2 (by omega)]

/-- A value that is not 0 is read back from where it was written, whatever the form of the buffer. -/
theorem Memory.read_write_self_of_ne {w : Nat} (m : SlotMem w) (i : Nat) (v : BitVec w)
    (hv : v ≠ 0) : Memory.read (Memory.write m i v) i = v := by
  induction m with
  | nil => rw [Memory.write, if_neg hv]; simp [Memory.read]
  | cons e m ih =>
    obtain ⟨k, x⟩ := e
    rw [Memory.write, if_neg hv, if_neg hv]
    split
    · simp [Memory.read]
    · split
      · simp [Memory.read]
      · have : k ≠ i := fun h => ‹¬ i = k› h.symm
        rw [Memory.read, if_neg this, ih]

/-- In canonical form 0 is read back from where it was written. -/
theorem Memory.read_write_zero {w : Nat} (m : SlotMem w) (lo i : Nat)
    (hwf : Memory.wfFrom lo m = true) : Memory.read (Memory.write m i 0) i = 0 := by
  induction m generalizing lo with
  | nil => rw [Memory.write, if_pos rfl]; rfl
  | cons e m ih =>
    obtain ⟨k, x⟩ := e
    simp only [Memory.wfFrom, Bool.and_eq_true, decide_eq_true_eq] at hwf
    rw [Memory.write, if_pos rfl, if_pos rfl]
    split
    · rw [Memory.read, if_neg (by omega), Memory.read_below m (k + 1) i hwf.2 (by omega)]
    · split
      · exact Memory.read_below m (k + 1) i hwf.2 (by omega)
      · have : k ≠ i := fun h => ‹¬ i = k› h.symm
        rw [Memory.read, if_neg this, ih (k + 1) hwf.2]

/-- In canonical form a value is read back from where it was written. -/
theorem Memory.read_write_self {w : Nat} (m : SlotMem w) (lo i : Nat) (v : BitVec w)
    (hwf : Memory.wfFrom lo m = true) : Memory.read (Memory.write m i v) i = v := by
  by_cases hv : v = 0
  · rw [hv]; exact Memory.read_write_zero m lo i hwf
  · exact Memory.read_write_self_of_ne m i v hv

/-- A canonical form with a bound has every smaller bound. -/
theorem Memory.wfFrom_mono {w : Nat} (m : SlotMem w) (lo lo' : Nat) (h : lo' ≤ lo)
    (hwf : Memory.wfFrom lo m = true) : Memory.wfFrom lo' m = true := by
  cases m with
  | nil => rfl
  | cons e m =>
    obtain ⟨k, x⟩ := e
    simp only [Memory.wfFrom, Bool.and_eq_true, decide_eq_true_eq] at hwf ⊢
    exact ⟨⟨by omega, hwf.1.2⟩, hwf.2⟩

/-- Writing at or above the bound keeps the canonical form with that bound. -/
theorem Memory.wfFrom_write {w : Nat} (m : SlotMem w) (lo i : Nat) (v : BitVec w) (hi : lo ≤ i)
    (hwf : Memory.wfFrom lo m = true) : Memory.wfFrom lo (Memory.write m i v) = true := by
  induction m generalizing lo with
  | nil =>
    unfold Memory.write
    split
    · rfl
    · simpa [Memory.wfFrom, hi]
  | cons e m ih =>
    obtain ⟨k, x⟩ := e
    have hwf' := hwf
    simp only [Memory.wfFrom, Bool.and_eq_true, decide_eq_true_eq] at hwf
    unfold Memory.write
    split
    · split
      · exact hwf'
      · simp only [Memory.wfFrom, Bool.and_eq_true, decide_eq_true_eq, bne_iff_ne]
        exact ⟨⟨hi, by assumption⟩, ⟨by omega, by simpa using hwf.1.2⟩, hwf.2⟩
    · split
      · subst i
        split
        · exact Memory.wfFrom_mono m _ _ (by omega) hwf.2
        · simp only [Memory.wfFrom, Bool.and_eq_true, decide_eq_true_eq, bne_iff_ne]
          exact ⟨⟨hi, by assumption⟩, hwf.2⟩
      · simp only [Memory.wfFrom, Bool.and_eq_true, decide_eq_true_eq]
        exact ⟨hwf.1, ih (k + 1) (by omega) hwf.2⟩

/-- Every write keeps the canonical form. -/
theorem Memory.wf_write {w : Nat} (m : SlotMem w) (i : Nat) (v : BitVec w)
    (hwf : Memory.wf m = true) : Memory.wf (Memory.write m i v) = true :=
  Memory.wfFrom_write m 0 i v (by omega) hwf

/-- Writing a list of values keeps the canonical form. -/
theorem Memory.wf_writeList {w : Nat} (vs : List (BitVec w)) (m : SlotMem w) (i : Nat)
    (hwf : Memory.wf m = true) : Memory.wf (Memory.writeList m i vs) = true := by
  induction vs generalizing m i with
  | nil => exact hwf
  | cons v vs ih => exact ih _ _ (Memory.wf_write m i v hwf)

/-- The cleared buffer is in canonical form. -/
@[simp] theorem Memory.wf_cleared {w : Nat} : Memory.wf (Memory.cleared : SlotMem w) = true := rfl

/-- Every slot of the cleared buffer reads 0. -/
@[simp] theorem Memory.read_cleared {w : Nat} (i : Nat) :
    Memory.read (Memory.cleared : SlotMem w) i = 0 := rfl

/-- The buffers after reset are in canonical form. -/
theorem State.reset_buffers_wf :
    Memory.wf State.reset.tx.txbuf = true ∧ Memory.wf State.reset.rx.rxbuf = true := by
  decide

/-- What a written buffer lists was there before or is the written slot. -/
theorem Memory.mem_write {w : Nat} (m : SlotMem w) (i : Nat) (v : BitVec w) (e : Nat × BitVec w)
    (h : e ∈ Memory.write m i v) : e ∈ m ∨ e = (i, v) := by
  induction m with
  | nil =>
    unfold Memory.write at h
    split at h <;> simp_all
  | cons f m ih =>
    obtain ⟨k, x⟩ := f
    unfold Memory.write at h
    split at h
    · split at h
      · exact .inl h
      · simpa [or_comm, or_left_comm] using h
    · split at h
      · split at h
        · exact .inl (List.mem_cons_of_mem _ h)
        · rcases List.mem_cons.mp h with h | h
          · exact .inr h
          · exact .inl (List.mem_cons_of_mem _ h)
      · rcases List.mem_cons.mp h with h | h
        · exact .inl (h ▸ List.mem_cons_self)
        · exact (ih h).imp_left (List.mem_cons_of_mem _)

/-- What a buffer lists after a list of writes was there before or lies in the written range. -/
theorem Memory.mem_writeList {w : Nat} (vs : List (BitVec w)) (m : SlotMem w) (i : Nat)
    (e : Nat × BitVec w) (h : e ∈ Memory.writeList m i vs) :
    e ∈ m ∨ (i ≤ e.1 ∧ e.1 < i + vs.length) := by
  induction vs generalizing m i with
  | nil => exact .inl h
  | cons v vs ih =>
    rcases ih _ _ h with h | h
    · rcases Memory.mem_write m i v e h with h | h
      · exact .inl h
      · exact .inr (by subst h; simp)
    · exact .inr (by simp only [List.length_cons]; omega)

/-- Slots outside the written range read as before. -/
theorem Memory.read_writeList_other {w : Nat} (vs : List (BitVec w)) (m : SlotMem w) (i j : Nat)
    (h : j < i ∨ i + vs.length ≤ j) : Memory.read (Memory.writeList m i vs) j = Memory.read m j := by
  induction vs generalizing m i with
  | nil => rfl
  | cons v vs ih =>
    simp only [List.length_cons] at h
    rw [Memory.writeList, ih _ _ (by omega), Memory.read_write_other _ _ _ _ (by omega)]

/-- Values that are not 0 are read back from the range they were written to. -/
theorem Memory.read_writeList {w : Nat} (vs : List (BitVec w)) (hv : ∀ v ∈ vs, v ≠ 0)
    (m : SlotMem w) (i k : Nat) (v : BitVec w) (h : vs[k]? = some v) :
    Memory.read (Memory.writeList m i vs) (i + k) = v := by
  induction vs generalizing m i k with
  | nil => simp at h
  | cons x vs ih =>
    cases k with
    | zero =>
      have hx : x = v := by simpa using h
      subst hx
      rw [Memory.writeList, Memory.read_writeList_other _ _ _ _ (by omega), Nat.add_zero,
        Memory.read_write_self_of_ne _ _ _ (hv x List.mem_cons_self)]
    | succ k =>
      have h' : vs[k]? = some v := by simpa using h
      have := ih (fun v hm => hv v (List.mem_cons_of_mem _ hm)) (Memory.write m i x) (i + 1) k h'
      rw [Memory.writeList]
      rwa [Nat.add_right_comm, Nat.add_assoc] at this

/-- A slot that does not read 0 is listed with the value it reads. -/
theorem Memory.mem_of_read_ne {w : Nat} (m : SlotMem w) (i : Nat) (h : Memory.read m i ≠ 0) :
    (i, Memory.read m i) ∈ m := by
  induction m with
  | nil => exact absurd rfl h
  | cons e m ih =>
    obtain ⟨k, x⟩ := e
    by_cases hk : k = i
    · subst hk; simp [Memory.read]
    · simp only [Memory.read, hk, if_false] at h ⊢
      exact List.mem_cons_of_mem _ (ih h)

/-- The slots of a range, in order. -/
@[simp] theorem Memory.length_readList {w : Nat} (m : SlotMem w) (i n : Nat) :
    (Memory.readList m i n).length = n := by
  induction n generalizing i with
  | zero => rfl
  | succ n ih => simp [Memory.readList, ih]

theorem Memory.getElem?_readList {w : Nat} (m : SlotMem w) (i n k : Nat) (h : k < n) :
    (Memory.readList m i n)[k]? = some (Memory.read m (i + k)) := by
  induction n generalizing i k with
  | zero => omega
  | succ n ih =>
    cases k with
    | zero => rfl
    | succ k =>
      rw [Memory.readList, List.getElem?_cons_succ, ih (i + 1) k (by omega)]
      congr 2
      omega

/-- The search finds the least slot that holds the terminator (R156). -/
theorem Memory.findTerminator_some (m : SlotMem 16) (i n j : Nat)
    (h : Memory.findTerminator m i n = some j) :
    i ≤ j ∧ j < i + n ∧ Memory.read m j = terminator ∧
      ∀ k, i ≤ k → k < j → Memory.read m k ≠ terminator := by
  induction n generalizing i with
  | zero => simp [Memory.findTerminator] at h
  | succ n ih =>
    unfold Memory.findTerminator at h
    split at h
    · have : i = j := by simpa using h
      subst this
      exact ⟨le_refl _, by omega, by assumption, fun k h1 h2 => by omega⟩
    · obtain ⟨h1, h2, h3, h4⟩ := ih (i + 1) h
      refine ⟨by omega, by omega, h3, fun k hk hkj => ?_⟩
      rcases Nat.eq_or_lt_of_le hk with rfl | hk
      · assumption
      · exact h4 k hk hkj

/-- The search finds nothing exactly when no slot holds the terminator (R156). -/
theorem Memory.findTerminator_none (m : SlotMem 16) (i n : Nat) :
    Memory.findTerminator m i n = none ↔
      ∀ k, i ≤ k → k < i + n → Memory.read m k ≠ terminator := by
  induction n generalizing i with
  | zero => simp [Memory.findTerminator]; intros; omega
  | succ n ih =>
    unfold Memory.findTerminator
    split
    · simp only [reduceCtorEq, false_iff, not_forall]
      exact ⟨i, le_refl _, by omega, by simpa⟩
    · rw [ih (i + 1)]
      constructor
      · intro h k h1 h2
        rcases Nat.eq_or_lt_of_le h1 with rfl | h1
        · assumption
        · exact h k h1 (by omega)
      · exact fun h k h1 h2 => h k (by omega) (by omega)

end Sys2Proof.Machine
end

