-- ==== Sys2Proof/Laws/Receiver.lean ====
section
/-!
SUPPORT. What the receiver can do in one tick, said once, and what every tick keeps.
-/

namespace Sys2Proof.Machine

open Sys2Proof.Config (Params)

/-- Everything a store can do: it writes slot `RXWP` and goes on, or finds the buffer full and stalls. -/
theorem RxUnit.store_cases (slots : Nat) (v : Word) (next : RxState) (rx : RxUnit) :
    (rx.rxwp < slots ∧ RxUnit.store slots v next rx =
      { rx with
        rxbuf := Memory.write rx.rxbuf rx.rxwp v, rxwp := rx.rxwp + 1, rxst := next }) ∨
    (slots ≤ rx.rxwp ∧ RxUnit.store slots v next rx = { rx with rxst := .stall }) := by
  unfold RxUnit.store
  split
  · exact .inl ⟨by assumption, rfl⟩
  · exact .inr ⟨by omega, rfl⟩

/-- A word made of a payload is at most 0x03FF (R66). -/
theorem wordOfPayload_le (d : Payload) : (wordOfPayload d).toNat ≤ 0x3FF := by
  have := d.isLt
  simp only [wordOfPayload, BitVec.toNat_setWidth]
  omega

/-- Everything one tick can do to the buffer: nothing, or store one value, the terminator or a payload, at `RXWP`
(R131, R133). -/
theorem RxUnit.tick_buffer (slots : Nat) (c : Chip) (rx : RxUnit) :
    ((RxUnit.tick slots c rx).1.rxbuf = rx.rxbuf ∧ (RxUnit.tick slots c rx).1.rxwp = rx.rxwp ∧
      (RxUnit.tick slots c rx).2 = false) ∨
    (rx.rxwp < slots ∧ ∃ v : Word, (v = terminator ∨ v.toNat ≤ 0x3FF) ∧
      (RxUnit.tick slots c rx).1.rxbuf = Memory.write rx.rxbuf rx.rxwp v ∧
      (RxUnit.tick slots c rx).1.rxwp = rx.rxwp + 1) := by
  rcases h : rx.rxst
  case wsB =>
    simp only [RxUnit.tick, h, RxUnit.slotSecond]
    split
    · exact .inl (by simp)
    · rcases RxUnit.store_cases slots terminator .quiet rx with ⟨h1, h2⟩ | ⟨h1, h2⟩ <;>
        simp only [RxUnit.terminatorStore, h2]
      · exact .inr ⟨h1, terminator, .inl rfl, by simp⟩
      · exact .inl (by simp)
  case bitB =>
    simp only [RxUnit.tick, h, RxUnit.bitSecond]
    split
    · rcases RxUnit.store_cases slots (wordOfPayload (rx.shiftIn c).shiftedPayload) .wsA
        (rx.shiftIn c) with ⟨h1, h2⟩ | ⟨h1, h2⟩ <;> simp only [RxUnit.wordStore, h2]
      · exact .inr ⟨h1, _, .inr (wordOfPayload_le _), rfl, rfl⟩
      · refine .inl ⟨rfl, rfl, ?_⟩
        have : ¬ (rx.shiftIn c).rxwp < slots := by omega
        simp [RxUnit.mismatch, this]
    · exact .inl ⟨rfl, rfl, rfl⟩
  all_goals
    refine .inl ?_
    simp only [RxUnit.tick, h]
    (try split) <;> simp

/-- Every tick keeps the receive buffer in canonical form, in range, and with legal values only. -/
theorem RxUnit.tick_keeps_bufferOk (p : Params) (c : Chip) (rx : RxUnit) (h : rx.bufferOk p) :
    (RxUnit.tick p.rxSlots c rx).1.bufferOk p := by
  obtain ⟨hwf, hwp, hval⟩ := h
  rcases RxUnit.tick_buffer p.rxSlots c rx with ⟨hb, hp, -⟩ | ⟨hlt, v, hv, hb, hp⟩
  · unfold RxUnit.bufferOk
    rw [hb, hp]
    exact ⟨hwf, hwp, hval⟩
  · unfold RxUnit.bufferOk
    rw [hb, hp]
    refine ⟨Memory.wf_write _ _ _ hwf, by omega, fun e he => ?_⟩
    rcases Memory.mem_write _ _ _ _ he with he | rfl
    · exact ⟨by have := (hval e he).1; omega, (hval e he).2⟩
    · exact ⟨by simp, hv⟩

/-- The bit counter after one bit more. -/
theorem RxUnit.shiftIn_rxnb (c : Chip) (rx : RxUnit) (h : rx.rxnb.toNat ≤ 10) :
    (rx.shiftIn c).rxnb.toNat = rx.rxnb.toNat + 1 := by
  simp only [RxUnit.shiftIn, BitVec.toNat_add]
  have : (1 : BitVec 4).toNat = 1 := rfl
  omega

/-- Every tick keeps `RXNB` in its range (R14). -/
theorem RxUnit.tick_keeps_countOk (slots : Nat) (c : Chip) (rx : RxUnit) (h : rx.countOk) :
    (RxUnit.tick slots c rx).1.countOk := by
  obtain ⟨h11, h10⟩ := h
  rcases hs : rx.rxst
  case wsB =>
    simp only [RxUnit.tick, hs, RxUnit.slotSecond]
    split
    · exact ⟨by simp, fun _ => by simp⟩
    · rcases RxUnit.store_cases slots terminator .quiet rx with ⟨-, h2⟩ | ⟨-, h2⟩ <;>
        simp only [RxUnit.terminatorStore, h2] <;> exact ⟨h11, by simp⟩
  case bitB =>
    have hn := RxUnit.shiftIn_rxnb c rx (h10 (.inr hs))
    have hle := h10 (.inr hs)
    simp only [RxUnit.tick, hs, RxUnit.bitSecond]
    split
    · rcases RxUnit.store_cases slots (wordOfPayload (rx.shiftIn c).shiftedPayload) .wsA
        (rx.shiftIn c) with ⟨-, h2⟩ | ⟨-, h2⟩ <;> simp only [RxUnit.wordStore, h2] <;>
        exact ⟨by show (rx.shiftIn c).rxnb.toNat ≤ 11; omega, by simp⟩
    · have hne : (rx.shiftIn c).rxnb.toNat ≠ 11 := fun h => ‹¬ _› (BitVec.eq_of_toNat_eq h)
      exact ⟨by show (rx.shiftIn c).rxnb.toNat ≤ 11; omega,
        fun _ => by show (rx.shiftIn c).rxnb.toNat ≤ 10; omega⟩
  case bitA =>
    simp only [RxUnit.tick, hs]
    exact ⟨h11, fun _ => h10 (.inl hs)⟩
  all_goals
    simp only [RxUnit.tick, hs]
    (try split) <;> exact ⟨h11, by simp [hs]⟩

/-- Running over a joined stream is running over its parts in turn. -/
theorem RxUnit.run_append (slots : Nat) (rx : RxUnit) (l m : List Chip) :
    RxUnit.run slots rx (l ++ m) =
      ((RxUnit.run slots (RxUnit.run slots rx l).1 m).1,
        (RxUnit.run slots rx l).2 + (RxUnit.run slots (RxUnit.run slots rx l).1 m).2) := by
  induction l generalizing rx with
  | nil => simp [RxUnit.run]
  | cons c l ih => simp [RxUnit.run, ih, Nat.add_assoc]

end Sys2Proof.Machine
end

