-- ==== Sys2Proof/Laws/Transmitter.lean ====
section
/-!
SUPPORT. What the transmitter can do in one tick, said once.
-/

namespace Sys2Proof.Machine

open Sys2Proof.Config (Params)

/-- Loading a slot that exists (R114, R115). -/
theorem TxUnit.load_ok (p : Params) (tx : TxUnit) (i : BitVec 16) (h : i.toNat < p.txCapacity) :
    TxUnit.load p tx i =
      .ok { tx with
        txst := .word, txpos := 0, txidx := i, txsr := Memory.read tx.txbuf i.toNat } := by
  simp [TxUnit.load, h]

/-- A tick of the transmitter never writes `TXBUF` or `TXCNT`. -/
theorem TxUnit.tick_frame (p : Params) (tx t : TxUnit) (h : TxUnit.tick p tx = .ok t) :
    t.txbuf = tx.txbuf ∧ t.txcnt = tx.txcnt := by
  rcases hs : tx.txst <;>
    simp only [TxUnit.tick, hs, TxUnit.tickSync, TxUnit.tickStart, TxUnit.tickWord,
      TxUnit.tickTrailer, TxUnit.load] at h <;>
    (repeat' split at h) <;> cases h <;> exact ⟨rfl, rfl⟩

/-- The bound R2 puts on the end pattern. -/
theorem Config.Params.valid_endPattern (p : Params) (h : p.valid = true) :
    2 ≤ p.endPattern.length ∧ p.endPattern.length ≤ 32 := by
  simp only [Params.valid, Bool.and_eq_true, decide_eq_true_eq] at h
  tauto

/-- `POLL_TICKS` is at least 1 (R2). -/
theorem Config.Params.valid_pollTicks (p : Params) (h : p.valid = true) : 1 ≤ p.pollTicks := by
  simp only [Params.valid, Bool.and_eq_true, decide_eq_true_eq] at h
  tauto

/-- `TX_CAPACITY` is at most 65536 (R2). -/
theorem Config.Params.valid_txCapacity (p : Params) (h : p.valid = true) :
    p.txCapacity ≤ 65536 := by
  simp only [Params.valid, Bool.and_eq_true, decide_eq_true_eq] at h
  tauto

/-- A 5-bit position one further, when it does not wrap. -/
theorem txpos_succ (x : BitVec 5) (h : x.toNat < 31) : (x + 1).toNat = x.toNat + 1 := by
  rw [BitVec.toNat_add]
  have : (1 : BitVec 5).toNat = 1 := rfl
  omega

/-- A 16-bit index one further, when it does not wrap. -/
theorem txidx_succ (x : BitVec 16) (h : x.toNat < 65535) : (x + 1).toNat = x.toNat + 1 := by
  rw [BitVec.toNat_add]
  have : (1 : BitVec 16).toNat = 1 := rfl
  omega

/-- Inside its segment the transmitter has a next state and stays inside its segments (R13, R113 to R116). -/
theorem TxUnit.tick_ok (p : Params) (tx : TxUnit) (hp : p.valid = true)
    (h : tx.positionOk p) : ∃ t, TxUnit.tick p tx = .ok t ∧ t.positionOk p := by
  have hend := Config.Params.valid_endPattern p hp
  have hcnt := tx.txcnt.isLt
  rcases hs : tx.txst <;> simp only [TxUnit.positionOk, hs] at h
  case idle =>
    refine ⟨{ tx with lineOut := false }, by simp [TxUnit.tick, hs], ?_⟩
    simp [TxUnit.positionOk, hs]
  case sync =>
    obtain ⟨hpos, hidx, hcap⟩ := h
    have hlt : tx.txpos.toNat < Config.syncPattern.length := by
      have : Config.syncPattern.length = 10 := rfl
      omega
    simp only [TxUnit.tick, hs, TxUnit.tickSync, List.getElem?_eq_getElem hlt]
    split
    · exact ⟨_, rfl, by simp [TxUnit.positionOk, hidx, hcap]⟩
    · have hne : tx.txpos.toNat ≠ 9 := fun h => ‹¬ _› (BitVec.eq_of_toNat_eq h)
      refine ⟨_, rfl, ?_⟩
      simp only [TxUnit.positionOk, txpos_succ tx.txpos (by omega)]
      exact ⟨by omega, hidx, hcap⟩
  case start =>
    obtain ⟨hpos, hidx, hcap⟩ := h
    have hlt : tx.txpos.toNat < Config.startPattern.length := by
      have : Config.startPattern.length = 5 := rfl
      omega
    simp only [TxUnit.tick, hs, TxUnit.tickStart, List.getElem?_eq_getElem hlt]
    split
    · rw [TxUnit.load_ok _ _ _ (by simpa using by omega)]
      exact ⟨_, rfl, by simp [TxUnit.positionOk, hcap]⟩
    · have hne : tx.txpos.toNat ≠ 4 := fun h => ‹¬ _› (BitVec.eq_of_toNat_eq h)
      refine ⟨_, rfl, ?_⟩
      simp only [TxUnit.positionOk, txpos_succ tx.txpos (by omega)]
      exact ⟨by omega, hidx, hcap⟩
  case word =>
    obtain ⟨hpos, hidx, hcap⟩ := h
    simp only [TxUnit.tick, hs, TxUnit.tickWord]
    split
    · refine ⟨_, rfl, ?_⟩
      simp only [TxUnit.positionOk, txpos_succ tx.txpos (by omega)]
      exact ⟨by omega, hidx, hcap⟩
    · split
      · have hi := txidx_succ tx.txidx (by omega)
        rw [TxUnit.load_ok _ _ _ (by omega)]
        refine ⟨_, rfl, ?_⟩
        simp only [TxUnit.positionOk, hi]
        exact ⟨by decide, by omega, hcap⟩
      · refine ⟨_, rfl, ?_⟩
        simp only [TxUnit.positionOk]
        exact ⟨by simp; omega, hidx, hcap⟩
  case trailer =>
    obtain ⟨hpos, hidx, hcap⟩ := h
    simp only [TxUnit.tick, hs, TxUnit.tickTrailer, List.getElem?_eq_getElem hpos]
    split
    · exact ⟨_, rfl, by simp [TxUnit.positionOk]⟩
    · refine ⟨_, rfl, ?_⟩
      simp only [TxUnit.positionOk, txpos_succ tx.txpos (by omega)]
      exact ⟨by omega, hidx, hcap⟩

/-- Ticks of the transmitter in two portions. -/
theorem TxUnit.after_add (p : Params) (tx t : TxUnit) (m n : Nat)
    (h : TxUnit.after p tx m = .ok t) : TxUnit.after p tx (m + n) = TxUnit.after p t n := by
  induction m generalizing tx with
  | zero => cases h; simp
  | succ m ih =>
    rw [Nat.succ_add, TxUnit.after]
    rw [TxUnit.after] at h
    split at h
    · exact ih _ h
    · cases h

end Sys2Proof.Machine
end

