-- ==== Sys2Proof/Laws/Engine.lean ====
section
/-!
SUPPORT. Everything the shared operations of the Transaction Engine can do, said once for each.
-/

namespace Sys2Proof.Machine

open Sys2Proof.Config (Params)

/-- The checks of R152, as numbers. -/
theorem requestOk_iff (p : Params) (r : TransactReq) :
    requestOk p r = true ↔
      r.bytes.length % 2 = 0 ∧ r.bytes.length / 2 ≠ 0 ∧ r.bytes.length / 2 ≤ p.txCapacity ∧
        r.deadline < 2 ^ p.timerBits := by
  simp [requestOk, and_assoc]

/-- A stream of bytes holds half as many words (R63). -/
theorem length_wordsOfBytes (b : List Byte) : (wordsOfBytes b).length = b.length / 2 := by
  fun_induction wordsOfBytes b with
  | case1 b0 b1 rest ih => simp [ih]; omega
  | case2 b h =>
    match b with
    | [] => rfl
    | [_] => simp
    | b0 :: b1 :: rest => exact absurd rfl (h b0 b1 rest)

/-- A request that fits arms (R153). -/
theorem armRequest_ok (r : TransactReq) (s : State)
    (h : r.bytes.length / 2 ≤ s.par.txCapacity) : armRequest r s = .next (s.arm r) := by
  simp [armRequest, h]

/-- Everything an arm writes, and that it writes nothing else (R153). -/
theorem arm_armedBy (r : TransactReq) (s : State) (hr : requestOk s.par r = true)
    (hp : s.par.txCapacity ≤ 65536) : ArmedBy r s (s.arm r) := by
  obtain ⟨-, h2, h3, -⟩ := (requestOk_iff _ _).1 hr
  refine ⟨rfl, ?_, fun j => rfl, fun i b0 b1 h0 h1 => ?_, fun i hi => ?_⟩
  · simp [BitVec.toNat_ofNat]
    omega
  · have hw := getElem?_wordsOfBytes r.bytes i b0 b1 h0 h1
    have hv : ∀ v ∈ (wordsOfBytes r.bytes).map wencWord, v ≠ 0 := by
      intro v hv
      obtain ⟨a, -, rfl⟩ := List.mem_map.1 hv
      exact wencWord_ne_zero a
    have := Memory.read_writeList _ hv s.tx.txbuf 0 i
      (wencWord (BitVec.ofNat 16 (b0.toNat + 256 * b1.toNat))) (by rw [List.getElem?_map, hw]; rfl)
    simpa using this
  · simp
    apply Memory.read_writeList_other
    right
    simp [length_wordsOfBytes]
    exact hi

/-- Everything serving a held request can do (R164). -/
theorem serveHeld_cases (s : State) :
    (s.held = [] ∧ serveHeld s = .next s) ∨
    ∃ r rest, s.held = r :: rest ∧ serveHeld s = armRequest r { s with held := rest } := by
  unfold serveHeld
  split
  · exact .inl ⟨by assumption, rfl⟩
  · exact .inr ⟨_, _, by assumption, rfl⟩

/-- Serving leaves an idle state as it is, or arms the request held longest, once those held have passed their
checks (R152, R164). -/
theorem serveHeld_servedFrom (s : State) (hp : s.par.txCapacity ≤ 65536)
    (hr : ∀ r ∈ s.held, requestOk s.par r = true) : ∃ u, serveHeld s = .next u ∧ ServedFrom s u := by
  rcases serveHeld_cases s with ⟨h, e⟩ | ⟨r, rest, h, e⟩
  · exact ⟨s, e, by simp [ServedFrom, h]⟩
  · have ho := hr r (by simp [h])
    refine ⟨_, e.trans (armRequest_ok _ _ ((requestOk_iff _ _).1 ho).2.2.1), ?_⟩
    unfold ServedFrom
    rw [h]
    exact arm_armedBy r { s with held := rest } ho hp

/-- What the poll captures are the bytes of the slots before the one it found (R157). -/
theorem resultBytes_isResultOf (s : State) (j : Nat) : isResultOf s.rx j (s.resultBytes j) := by
  refine ⟨by simp [State.resultBytes], fun i hi => ?_⟩
  apply getElem?_tbytes
  rw [Memory.getElem?_readList _ _ _ _ hi, Nat.zero_add]

/-- Everything a tick of teardown can do (R161 to R163). -/
theorem teardownTick_cases (a : Bool) (s : State) :
    (a = true ∧ teardownTick a s = serveHeld s.giveBack) ∨
    (a = false ∧ s.ackWait < s.par.abortAckTicks ∧
      teardownTick a s = .next { s.ackWithheld with ackWait := s.ackWait + 1 }) ∨
    (a = false ∧ s.par.abortAckTicks ≤ s.ackWait ∧
      teardownTick a s = .next s.ackWithheld.goFatal) := by
  cases a
  · by_cases h : s.ackWait < s.par.abortAckTicks
    · exact .inr (.inl ⟨rfl, h, by simp [teardownTick, h]⟩)
    · exact .inr (.inr ⟨rfl, by omega, by simp [teardownTick, h]⟩)
  · exact .inl ⟨rfl, by simp [teardownTick]⟩

/-- Everything a poll can find (R156). -/
theorem State.poll_cases (s : State) :
    (∃ j, s.poll = .completed j ∧ j < s.par.rxSlots ∧ Memory.read s.rx.rxbuf j = terminator ∧
      ∀ i, i < j → Memory.read s.rx.rxbuf i ≠ terminator) ∨
    ((∀ i, i < s.par.rxSlots → Memory.read s.rx.rxbuf i ≠ terminator) ∧
      ((s.timeout ≤ s.timer ∧ s.poll = .timedOut) ∨ (s.timer < s.timeout ∧ s.poll = .stay))) := by
  unfold State.poll
  split
  · rename_i j hj
    obtain ⟨-, h2, h3, h4⟩ := Memory.findTerminator_some _ _ _ _ hj
    exact .inl ⟨j, rfl, by omega, h3, fun i hi => h4 i (by omega) hi⟩
  · rename_i hn
    rw [Memory.findTerminator_none] at hn
    refine .inr ⟨fun i hi => hn i (by omega) (by omega), ?_⟩
    split
    · exact .inl ⟨by assumption, rfl⟩
    · exact .inr ⟨by omega, rfl⟩

/-- Everything a tick in `InFlight` can do (R155). -/
theorem inFlightTick_cases (c : Chip) (a : Bool) (s : State) :
    (inFlightTick c a s = lineTick c s ∧
      (s.timer % s.par.pollTicks = 0 → s.poll = .stay)) ∨
    (s.timer % s.par.pollTicks = 0 ∧ ∃ j, s.poll = .completed j ∧
      inFlightTick c a s = teardownTick a (s.exitPoll .completed (s.resultBytes j))) ∨
    (s.timer % s.par.pollTicks = 0 ∧ s.poll = .timedOut ∧
      inFlightTick c a s = teardownTick a (s.exitPoll .timedOut [])) := by
  by_cases h : s.timer % s.par.pollTicks = 0
  · rcases hp : s.poll with j | _ | _
    · exact .inr (.inl ⟨h, j, rfl, by simp [inFlightTick, h, hp]⟩)
    · exact .inr (.inr ⟨h, rfl, by simp [inFlightTick, h, hp]⟩)
    · exact .inl ⟨by simp [inFlightTick, h, hp], fun _ => rfl⟩
  · exact .inl ⟨by simp [inFlightTick, h], fun h' => absurd h' h⟩

/-- What the line does in a tick, once the transmitter's tick is known (R155). -/
theorem lineTick_ok (c : Chip) (s : State) (t : TxUnit)
    (h : TxUnit.tick s.par s.tx = .ok t) :
    lineTick c s = .next (({ s with
      tx := t
      rx := (RxUnit.tick s.par.rxSlots c s.rx).1
      timer := s.timer + 1 } : State).countMismatch (RxUnit.tick s.par.rxSlots c s.rx).2) := by
  simp [lineTick, h]

/-- The last poll is a multiple of `POLL_TICKS`, not before the deadline, and before the deadline plus one
interval (R156). -/
theorem lastPoll_bounds (p : Params) (deadline : Nat) (h : 1 ≤ p.pollTicks) :
    lastPoll p deadline % p.pollTicks = 0 ∧ deadline ≤ lastPoll p deadline ∧
      lastPoll p deadline < deadline + p.pollTicks := by
  have hd := Nat.div_add_mod (deadline + p.pollTicks - 1) p.pollTicks
  have hm := Nat.mod_lt (deadline + p.pollTicks - 1) (by omega : p.pollTicks > 0)
  have hc : p.pollTicks * ((deadline + p.pollTicks - 1) / p.pollTicks) = lastPoll p deadline :=
    Nat.mul_comm _ _
  exact ⟨by simp [lastPoll], by omega, by omega⟩

end Sys2Proof.Machine
end

