-- ==== Sys2Proof/Laws/PerInstr.lean ====
section
/-!
SUPPORT. What is said of every operation as syntax, one lemma for each constructor of Instr.
-/

namespace Sys2Proof.Laws.EncodingForm

/-- The request of an operation carries its code of R80, selects an operation, and leaves the lanes it does not
use empty. -/
def Statement (i : Instr) : Prop :=
  (encode i).op = opcode i ∧ opDefined (opcode i) = true ∧ i.wellFormed = true

theorem parity (v : Word) : Statement (.parity v) := by
  refine ⟨rfl, rfl, ?_⟩
  simp [Instr.wellFormed, encode, OpReq.wellFormed, OpReq.bare, opDefined]

theorem wenc (v : Word) : Statement (.wenc v) := by
  refine ⟨rfl, rfl, ?_⟩
  simp [Instr.wellFormed, encode, OpReq.wellFormed, OpReq.bare, opDefined]

theorem wdec (c : Container) : Statement (.wdec c) := by
  refine ⟨rfl, rfl, ?_⟩
  simp [Instr.wellFormed, encode, OpReq.wellFormed, OpReq.bare, opDefined]

theorem ftx (w : List Word) : Statement (.ftx w) := by
  refine ⟨rfl, rfl, ?_⟩
  simp [Instr.wellFormed, encode, OpReq.wellFormed, OpReq.bare, opDefined]

theorem frx (l : List Chip) : Statement (.frx l) := by
  refine ⟨rfl, rfl, ?_⟩
  simp [Instr.wellFormed, encode, OpReq.wellFormed, OpReq.bare, opDefined]

theorem transact (b : List Byte) (t : Timeout) : Statement (.transact b t) := by
  refine ⟨rfl, rfl, ?_⟩
  simp [Instr.wellFormed, encode, OpReq.wellFormed, OpReq.bare, opDefined]

theorem texp (w : List Word) (d : Option RDesc) : Statement (.texp w d) := by
  refine ⟨rfl, rfl, ?_⟩
  simp [Instr.wellFormed, encode, OpReq.wellFormed, OpReq.bare, opDefined]

theorem tenc (w : List Word) (d : Option RDesc) : Statement (.tenc w d) := by
  refine ⟨rfl, rfl, ?_⟩
  simp [Instr.wellFormed, encode, OpReq.wellFormed, OpReq.bare, opDefined]

theorem tdec (b : List Byte) : Statement (.tdec b) := by
  refine ⟨rfl, rfl, ?_⟩
  simp [Instr.wellFormed, encode, OpReq.wellFormed, OpReq.bare, opDefined]

theorem tcmp (w : List Word) : Statement (.tcmp w) := by
  refine ⟨rfl, rfl, ?_⟩
  simp [Instr.wellFormed, encode, OpReq.wellFormed, OpReq.bare, opDefined]

end Sys2Proof.Laws.EncodingForm
end

