-- ==== Sys2Proof/Laws/Transport.lean ====
section
/-!
SUPPORT. Everything the expander can do, and the run the compressor looks for.
-/

namespace Sys2Proof.Machine

/-- Everything `TEXP` can do (R180, R181): a descriptor is absent or has count 0 and the sequence stays, or it is
malformed or too long and there is no result, or the tail is repeated. -/
theorem expand_cases (limit : Option Nat) (ws : List Word) (d : Option RDesc) :
    ((d = none ∨ ∃ e, d = some e ∧ e.count = 0) ∧ expand limit ws d = some ws) ∨
    (∃ e, d = some e ∧ (e.count < 0 ∨ (0 < e.count ∧ (e.offset < 0 ∨ (ws.length : Int) ≤ e.offset))) ∧
      expand limit ws d = none) ∨
    (∃ e, d = some e ∧ 0 < e.count ∧ 0 ≤ e.offset ∧ e.offset < ws.length ∧
      exceedsExpandMax limit (e.offset + e.count * ((ws.length : Int) - e.offset)) = true ∧
      expand limit ws d = none) ∨
    ∃ e, d = some e ∧ 0 < e.count ∧ 0 ≤ e.offset ∧ e.offset < ws.length ∧
      exceedsExpandMax limit (e.offset + e.count * ((ws.length : Int) - e.offset)) = false ∧
      expand limit ws d = some (ws.take e.offset.toNat ++
        (List.replicate e.count.toNat (ws.drop e.offset.toNat)).flatten) := by
  cases d with
  | none => exact .inl ⟨.inl rfl, rfl⟩
  | some e =>
    by_cases h1 : e.count < 0
    · exact .inr (.inl ⟨e, rfl, .inl h1, by simp [expand, h1]⟩)
    · by_cases h2 : e.count = 0
      · exact .inl ⟨.inr ⟨e, rfl, h2⟩, by simp [expand, h2]⟩
      · by_cases h3 : e.offset < 0 ∨ (ws.length : Int) ≤ e.offset
        · exact .inr (.inl ⟨e, rfl, .inr ⟨by omega, h3⟩, by simp [expand, h1, h2, h3]⟩)
        · have h4 : 0 ≤ e.offset := by omega
          have h5 : e.offset < ws.length := by omega
          rcases hx : exceedsExpandMax limit
            (e.offset + e.count * ((ws.length : Int) - e.offset)) with _ | _
          · exact .inr (.inr (.inr ⟨e, rfl, by omega, h4, h5, hx,
              by simp [expand, h1, h2, h3, hx]⟩))
          · exact .inr (.inr (.inl ⟨e, rfl, by omega, h4, h5, hx,
              by simp [expand, h1, h2, h3, hx]⟩))

/-- An unbounded expansion is never refused for its length (R2). -/
@[simp] theorem exceedsExpandMax_none (n : Int) : exceedsExpandMax none n = false := rfl

/-- A finite bound refuses exactly what is longer (R180). -/
@[simp] theorem exceedsExpandMax_some (m : Nat) (n : Int) :
    exceedsExpandMax (some m) n = decide ((m : Int) < n) := rfl

/-- The tail run of a sequence that ends in `r` copies of a word and no more (R192). -/
theorem tailRun_append_replicate (pre : List Word) (w : Word) (r : Nat) (hr : 1 ≤ r)
    (h : pre.getLast? ≠ some w) : tailRun (pre ++ List.replicate r w) = r := by
  obtain ⟨n, rfl⟩ : ∃ n, r = n + 1 := ⟨r - 1, by omega⟩
  have ht : ((pre.reverse).takeWhile (· == w)) = [] := by
    rcases hp : pre.reverse with _ | ⟨x, l⟩
    · rfl
    · have hx : pre.getLast? = some x := by
        rw [← List.head?_reverse, hp]; rfl
      have hne : ¬ (x == w) = true := fun he => h (by rw [hx, beq_iff_eq.mp he])
      simp only [List.takeWhile_cons, hne]
      simp
  rw [tailRun, List.reverse_append, List.reverse_replicate, List.replicate_succ, List.cons_append,
    headRun, List.takeWhile_append_of_pos (by simp), ht]
  simp [Nat.add_comm]

end Sys2Proof.Machine
end

