-- ==== Sys2Proof/Laws/Step.lean ====
section
/-!
SUPPORT. What a step can be, said once: a refused configuration, a tick, or one of the host's acts.
-/

namespace Sys2Proof.Machine

/-- A step that answers a next state has valid parameters and takes the next input. -/
theorem step_next (s u : State) (h : step s = .next u) :
    s.par.valid = true ∧ takeInput s = .next u := by
  unfold step runStep at h
  split at h
  · exact ⟨by assumption, h⟩
  · cases h

/-- Everything accepting a request can do (R80, R81). -/
theorem acceptRequest_cases (r : OpReq) (s : State) :
    (∃ i, decode r = .instr i ∧ acceptRequest r s = exec i s) ∨
    ∃ op, decode r = .rejected (.reservedOp op) ∧
      acceptRequest r s = .next (s.raiseError op .invalidInput) := by
  unfold acceptRequest
  rcases h : decode r with i | e
  · exact .inl ⟨i, rfl, rfl⟩
  · obtain ⟨op⟩ := e
    exact .inr ⟨op, rfl, rfl⟩

/-- Everything `TRANSACT` can do as it is issued (R152, R153, R162, R164). -/
theorem execTransact_cases (b : List Byte) (t : Timeout) (s : State) :
    (requestOk s.par { bytes := b, deadline := Timeout.deadline t } = false ∧
      execTransact b t s = .next (s.raiseError 0x6#4 .invalidInput)) ∨
    (requestOk s.par { bytes := b, deadline := Timeout.deadline t } = true ∧
      ((s.tst = .halted ∧ execTransact b t s = .next (s.raiseError 0x6#4 .fatal)) ∨
       (s.tst = .idle ∧
        execTransact b t s = .next (s.arm { bytes := b, deadline := Timeout.deadline t })) ∨
       (s.tst ≠ .idle ∧ s.tst ≠ .halted ∧
        execTransact b t s =
          .next { s with held := s.held ++ [{ bytes := b, deadline := Timeout.deadline t }] }))) := by
  rcases h : requestOk s.par { bytes := b, deadline := Timeout.deadline t } with _ | _
  · exact .inl ⟨rfl, by simp [execTransact, h]⟩
  · refine .inr ⟨rfl, ?_⟩
    by_cases h1 : s.tst = .halted
    · exact .inl ⟨h1, by simp [execTransact, h, h1]⟩
    · by_cases h2 : s.tst = .idle
      · refine .inr (.inl ⟨h2, ?_⟩)
        have hfit := ((requestOk_iff _ _).1 h).2.2.1
        simp [execTransact, h, h2, armRequest_ok _ s hfit]
      · exact .inr (.inr ⟨h2, h1, by simp [execTransact, h, h1, h2]⟩)

end Sys2Proof.Machine
end

