-- ==== Sys2Proof/Laws/Tunnel.lean ====
section
/-!
SUPPORT. What a tunnel request and a server's answer are made of.
-/

namespace Sys2Proof.Machine

/-- Everything building a request can do (R222): there is none when the expander refuses, and otherwise its body is
the bytes of the expanded frame and its fields are the ones given. -/
theorem TunnelRequest.ofFrame_eq (m : Option Nat) (ws : List Word) (d : Option RDesc) (t : Option Nat)
    (a : Option (List Byte)) :
    (expand m ws d = none ∧ TunnelRequest.ofFrame m ws d t a = none) ∨
    ∃ f, expand m ws d = some f ∧
      TunnelRequest.ofFrame m ws d t a = some { body := tbytes f, timeoutMs := t, destination := a } := by
  unfold TunnelRequest.ofFrame
  cases h : expand m ws d with
  | none => exact .inl ⟨rfl, rfl⟩
  | some f => exact .inr ⟨f, rfl, rfl⟩

/-- A completed transaction is answered with its bytes (R226). -/
@[simp] theorem serverReply_completed (op : BitVec 4) (b : List Byte) :
    serverReply (.ok op (.bytes b)) = .response 200 b := rfl

/-- A timeout is answered with 408 (R226). -/
@[simp] theorem serverStatus_timeout (op : BitVec 4) : serverStatus (.error op .receiveTimeout) = 408 := rfl

end Sys2Proof.Machine
end

