-- ==== Sys2Proof/Tests/Slice0.lean ====
section
/-!
SUPPORT. Small tests: decoding, the checks of WellFormed, one or two vectors of spec/95 for each operation, and
for each statement with hypotheses a concrete case that meets them. Expected values are those of spec/.
-/

namespace Sys2Proof.Tests

open Sys2Proof.Machine Sys2Proof.Config

/-! ## Helpers -/

/-- A look at the state an outcome leads to. -/
def look {α : Type} (o : Host.Outcome State Fault Refusal) (f : State → α) : Option α :=
  match o with
  | .next s => some (f s)
  | .fault _ => none
  | .refused _ => none

/-- Chips written as in the spec, leftmost first; only `0` and `1` count. -/
def chips (s : String) : List Chip :=
  s.toList.filterMap fun c => if c = '0' then some false else if c = '1' then some true else none

/-- The default build with a small receive buffer, a small transmit buffer and a poll every second tick. -/
def small : Params := { Params.default with rxFrameMax := 3, txCapacity := 2, pollTicks := 2 }

/-- The small build after reset. -/
def base : State := State.resetWith small

/-- One word 0x005 is armed, with the deadline 7. -/
def armed : State :=
  { base with
    tst := .armed
    timeout := 7
    tx := { base.tx with txbuf := [(0, 0x6AAA6500)] } }

/-- The same frame in flight, `timer` ticks after its start as far as `TIMER` shows; both units in their first
state after one tick. -/
def flight (timer : Nat) : State :=
  { armed with
    tst := .inFlight
    timer := timer
    tx := { armed.tx with txst := .sync, txpos := 1 }
    rx := { armed.rx with rxst := .arm } }

/-- A transaction in flight at a poll, with `m` in the receive buffer. -/
def polled (timer : Nat) (m : SlotMem 16) (wp : Nat) : State :=
  { flight timer with rx := { (flight timer).rx with rxbuf := m, rxwp := wp } }

/-- Teardown that waits for the acknowledge, with its requests held. -/
def waiting (tst : TState) (held : List TransactReq) : State :=
  { base with tst := tst, held := held, captured := if tst = .completed then [4, 0] else [] }

/-- A receiver in `RX_BIT_B` with the last chip of a word to come; the ten bits shifted in are 0x004. -/
def lastBit : RxUnit := { RxUnit.fresh with rxst := .bitB, rxnb := 10, rxsr := 0x004 }

/-- A receiver in the second half of a word slot. -/
def slotHalf (a : Chip) (wp : Nat) : RxUnit :=
  { RxUnit.fresh with rxst := .wsB, rxa := a, rxwp := wp }

/-! ## Decoding (R80, R81): requests written out as code and lanes -/

theorem test_decode_parity :
    decode ⟨0x1, 0x123, 0, [], [], [], .absent, none⟩ = .instr (.parity 0x123) := rfl
theorem test_decode_wenc :
    decode ⟨0x2, 0x005, 0, [], [], [], .absent, none⟩ = .instr (.wenc 0x005) := rfl
theorem test_decode_wdec :
    decode ⟨0x3, 0, 0x6AAA6500, [], [], [], .absent, none⟩ = .instr (.wdec 0x6AAA6500) := rfl
theorem test_decode_ftx :
    decode ⟨0x4, 0, 0, [0x155, 0x2AA], [], [], .absent, none⟩ = .instr (.ftx [0x155, 0x2AA]) := rfl
theorem test_decode_frx :
    decode ⟨0x5, 0, 0, [], [false, true], [], .absent, none⟩ = .instr (.frx [false, true]) := rfl
theorem test_decode_transact :
    decode ⟨0x6, 0, 0, [], [], [0x05, 0x00], .ms 100, none⟩ =
      .instr (.transact [0x05, 0x00] (.ms 100)) := rfl
theorem test_decode_texp :
    decode ⟨0x7, 0, 0, [1, 2, 3], [], [], .absent, some ⟨3, 1⟩⟩ =
      .instr (.texp [1, 2, 3] (some ⟨3, 1⟩)) := rfl
theorem test_decode_tenc :
    decode ⟨0x8, 0, 0, [5, 0], [], [], .absent, some ⟨4, 1⟩⟩ =
      .instr (.tenc [5, 0] (some ⟨4, 1⟩)) := rfl
theorem test_decode_tdec :
    decode ⟨0x9, 0, 0, [], [], [0x04, 0x00], .absent, none⟩ = .instr (.tdec [0x04, 0x00]) := rfl
theorem test_decode_tcmp :
    decode ⟨0xA, 0, 0, [7, 7, 7], [], [], .absent, none⟩ = .instr (.tcmp [7, 7, 7]) := rfl
theorem test_decode_reserved :
    [0x0#4, 0xB#4, 0xC#4, 0xD#4, 0xE#4, 0xF#4].map (fun op => decode (OpReq.bare op)) =
      [0x0#4, 0xB#4, 0xC#4, 0xD#4, 0xE#4, 0xF#4].map (fun op => .rejected (.reservedOp op)) := by
  decide
theorem test_encode_transact :
    encode (.transact [0x05, 0x00] (.ms 100)) =
      ⟨0x6, 0, 0, [], [], [0x05, 0x00], .ms 100, none⟩ := rfl

/-! ## WellFormed: each check refuses a term that breaks it -/

theorem test_wf_default : Params.default.valid = true ∧ Params.default.recommended = true := by decide
theorem test_wf_end_too_short : ({ small with endPattern := [true] } : Params).valid = false := by decide
theorem test_wf_end_too_long :
    ({ small with endPattern := List.replicate 33 false } : Params).valid = false := by decide
theorem test_wf_end_starts_word : ({ small with endPattern := [false, true] } : Params).valid = false := by
  decide
theorem test_wf_tx_capacity : ({ small with txCapacity := 65537 } : Params).valid = false := by decide
theorem test_wf_poll_ticks : ({ small with pollTicks := 0 } : Params).valid = false := by decide
theorem test_wf_abort_ack : ({ small with abortAckTicks := 1 } : Params).valid = false := by decide
theorem test_wf_not_recommended :
    ({ small with endPattern := chips "001111" } : Params).recommended = false := by decide
theorem test_wf_reserved_op : (OpReq.bare 0x0).wellFormed = false ∧ (OpReq.bare 0xB).wellFormed = false := by
  decide
theorem test_wf_word_lane : ({ OpReq.bare 0x3 with word := 1 } : OpReq).wellFormed = false := by decide
theorem test_wf_container_lane : ({ OpReq.bare 0x2 with container := 1 } : OpReq).wellFormed = false := by
  decide
theorem test_wf_words_lane : ({ OpReq.bare 0x9 with words := [1] } : OpReq).wellFormed = false := by decide
theorem test_wf_chips_lane : ({ OpReq.bare 0x4 with chips := [true] } : OpReq).wellFormed = false := by
  decide
theorem test_wf_bytes_lane : ({ OpReq.bare 0xA with bytes := [1] } : OpReq).wellFormed = false := by decide
theorem test_wf_timeout_lane : ({ OpReq.bare 0x9 with timeout := .ms 1 } : OpReq).wellFormed = false := by
  decide
theorem test_wf_desc_lane : ({ OpReq.bare 0xA with desc := some ⟨0, 0⟩ } : OpReq).wellFormed = false := by
  decide

/-! ## Operations, on vectors of spec/95 -/

/-- V-WC-8 and program P1 step 1. -/
theorem test_parity_123 :
    look (exec (.parity 0x123) base) (fun s => (s.results, s.pcnt)) =
      some ([.ok 0x1 (.bit true)], 4) := by decide
/-- V-WC-11. -/
theorem test_parity_200 :
    look (exec (.parity 0x200) base) (·.results) = some [.ok 0x1 (.bit false)] := by decide
/-- V-WC-7. -/
theorem test_wenc_0C1 :
    look (exec (.wenc 0x0C1) base) (·.results) = some [.ok 0x2 (.container 0x696AA600)] := by decide
/-- V-WC-16: only bits 9 to 0 are read. -/
theorem test_wenc_8005 :
    look (exec (.wenc 0x8005) base) (·.results) = some [.ok 0x2 (.container 0x6AAA6500)] := by decide
/-- V-WC-18, with the counter at its largest value. -/
theorem test_wdec_mismatch :
    look (exec (.wdec 0x6AAA6600) { base with perrcnt := 0xFFFE }) (fun s => (s.results, s.perrcnt)) =
      some ([.ok 0x3 (.decoded 0x0005 false)], 0xFFFF) := by decide
/-- V-WC-24. -/
theorem test_wdec_bad_pair :
    look (exec (.wdec 0x7AAA6500) base) (·.results) = some [.ok 0x3 (.decoded 0x0205 false)] := by decide
/-- V-FTX-1. -/
theorem test_ftx_005 :
    look (exec (.ftx [0x005]) base) (·.results) =
      some [.ok 0x4 (.chips (chips "0101010101 00111 011010101010101001100101 0011"))] := by decide
/-- V-FTX-6: no word; and one word more than `TX_CAPACITY`. -/
theorem test_ftx_refuses :
    look (exec (.ftx []) base) (·.outcome) = some 1 ∧
    look (exec (.ftx [1, 2, 3]) base) (·.outcome) = some 1 := by decide
/-- V-FRX-6: a parity mismatch, and `PERRCNT` is left alone. -/
theorem test_frx_mismatch :
    look (exec (.frx (chips "0101010101 00111 011001101001101010010110 0011 0000")) base)
      (fun s => (s.results, s.perrcnt)) =
      some ([.ok 0x5 (.received [0x0123, 0xFFFF] 1)], 0) := by decide
/-- V-FRX-18. -/
theorem test_frx_long_pulse :
    look (exec (.frx (chips "0101010101 001111 000000")) base) (·.results) =
      some [.ok 0x5 (.received [0xFFFF] 0)] := by decide
/-- P4: the arm. -/
theorem test_transact_arms :
    look (exec (.transact [0x05, 0x00] (.ms 100)) base)
      (fun s => (s.tst, s.timeout, s.tx.txbuf, s.tx.txcnt)) =
      some (.armed, 471740, [(0, 0x6AAA6500)], 0) := by decide
/-- P7 steps 2 and 3: the operand checks come before `Halted` (R205). -/
theorem test_transact_halted :
    look (exec (.transact [0x05, 0x00] (.ms 100)) { base with tst := .halted }) (·.outcome) = some 5 ∧
    look (exec (.transact [0x05] (.ms 100)) { base with tst := .halted }) (·.outcome) = some 1 := by decide
/-- V-TR-17. -/
theorem test_texp_tail :
    look (exec (.texp [1, 2, 3] (some ⟨4, 2⟩)) base) (·.results) =
      some [.ok 0x7 (.words [1, 2, 3, 3, 3, 3])] := by decide
/-- V-TR-12. -/
theorem test_texp_boundary :
    look (exec (.texp [1, 2, 3] (some ⟨2, 3⟩)) base) (·.results) =
      some [.error 0x7 .invalidInput] := by decide
/-- V-TR-7, the source's example X5. -/
theorem test_tenc_repeat :
    look (exec (.tenc [1, 2, 3] (some ⟨3, 1⟩)) base) (·.results) =
      some [.ok 0x8 (.bytes [1, 0, 2, 0, 3, 0, 2, 0, 3, 0, 2, 0, 3, 0])] := by decide
/-- V-TR-6. -/
theorem test_tenc_signed :
    look (exec (.tenc [u16 (-1), u16 (-2), u16 (-32768)] none) base) (·.results) =
      some [.ok 0x8 (.bytes [0xFF, 0xFF, 0xFE, 0xFF, 0x00, 0x80])] := by decide
/-- V-TR-3. -/
theorem test_tdec_order :
    look (exec (.tdec [0x01, 0x02, 0x03, 0x04]) base) (·.results) =
      some [.ok 0x9 (.words [0x0201, 0x0403])] := by decide
/-- V-TR-10, the source's example X6. -/
theorem test_tdec_odd :
    look (exec (.tdec [0x01, 0x02, 0x03]) base) (fun s => (s.results, s.outcome)) =
      some ([.error 0x9 .invalidFrame], 2) := by decide
/-- V-TR-18. -/
theorem test_tcmp_run :
    look (exec (.tcmp [5, 0, 0, 0, 0]) base) (·.results) =
      some [.ok 0xA (.compressed [5, 0] ⟨4, 1⟩)] := by decide
/-- V-TR-22. -/
theorem test_tcmp_no_run :
    look (exec (.tcmp [0, 0, 1, 0]) base) (·.results) =
      some [.ok 0xA (.compressed [0, 0, 1, 0] ⟨0, 0⟩)] := by decide

/-! ## The step and the engine -/

/-- The exit poll of P4: the host has `04 00`, the engine is idle. -/
theorem test_poll_returns_frame :
    look (tick false true (polled 1100 [(0, 0x0004), (1, 0xFFFF)] 2))
      (fun s => (s.results, s.tst, s.timer)) =
      some ([.ok 0x6 (.bytes [0x04, 0x00])], .idle, 1100) := by decide
/-- A timeout and a withheld acknowledge in one tick: V-TX-20's outcome wins (R162). -/
theorem test_fatal_on_timeout :
    look (tick false false (polled 8 [] 0)) (fun s => (s.outcome, s.tst)) = some (5, .halted) := by decide
/-- R168 (a): with `T = 0` nothing is driven. -/
theorem test_zero_deadline :
    look (tick true true { armed with timeout := 0 }) (fun s => (s.outcome, s.timer, s.tx.lineOut)) =
      some (3, 0, false) := by decide
/-- V-FTX-1's serial form: the last chip of the preamble, the loading of `TXSR`, and the first chip of a word. -/
theorem test_transmitter_ticks :
    TxUnit.tick small { armed.tx with txst := .sync, txpos := 9 } =
      .ok { armed.tx with txst := .start, txpos := 0, lineOut := true } ∧
    TxUnit.tick small { armed.tx with txst := .start, txpos := 4 } =
      .ok { armed.tx with txst := .word, txpos := 0, lineOut := true, txsr := 0x6AAA6500 } ∧
    TxUnit.tick small { armed.tx with txst := .word, txsr := 0x6AAA6500 } =
      .ok { armed.tx with txst := .word, txpos := 1, lineOut := false, txsr := 0xD554CA00 } := by decide
/-- A full receiver stalls (R134): V-FRX-15's buffer of two slots. -/
theorem test_receiver_stalls :
    (RxUnit.tick 2 true { lastBit with rxwp := 2 }).1.rxst = .stall := by decide
/-- `STATUS` after P1: `PERR` alone. -/
theorem test_status_perr : ({ base with perrcnt := 2 } : State).status = 0x0080 := by decide
/-- P4's end state: `TX_DONE` alone. -/
theorem test_status_tx_done :
    ({ base with tx := { base.tx with txDone := true } } : State).status = 0x0020 := by decide
/-- A table word placed where the step fetches runs as the first operation after reset. -/
theorem test_with_fetch_word :
    look (step (State.reset.withFetchWord 8 0x02)) (·.results) =
      some [.ok 0x2 (.container 0x6AAAA900)] := by decide
/-- A reserved code ends with `InvalidInput` (R81). -/
theorem test_reserved_code :
    look (step (State.reset.withFetchWord 8 0x0B)) (fun s => (s.results, s.outcome)) =
      some ([.error 0xB .invalidInput], 1) := by decide
/-- A build that breaks R2 is refused (log entry 16). -/
theorem test_bad_build_refused :
    look (step (State.resetWith { small with pollTicks := 0 })) (·.tst) = none := by decide
/-- `rst` leaves `Halted` (P7 step 5). -/
theorem test_rst :
    look (step { base with tst := .halted, outcome := 5, inputs := [.rst] })
      (fun s => (s.tst, s.outcome)) = some (.idle, 0) := by decide
/-- A host read of `OUTCOME`, register 1. -/
theorem test_read_outcome :
    look (step { base with outcome := 3, inputs := [.readReg 1] }) (·.results) =
      some [.register 1 3] := by decide

/-! ## What log entry 29 says, shown -/

/-- With the end pattern 000100111, which the constraints of R2 allow (its recommendation does not)... -/
theorem test_end_with_start_group_valid :
    ({ small with endPattern := chips "000100111" } : Params).valid = true := by decide
/-- ...the trailer holds a start group, and the receiver stores a second terminator, which R136 does not. -/
theorem test_end_with_start_group :
    (RxUnit.run 4 RxUnit.fresh (frameChips { small with endPattern := chips "000100111" } [4] ++
      chips "0000")).1.stored = [0x0004, 0xFFFF, 0xFFFF] := by decide +kernel
/-- R256's recommendation is met by the end pattern 11, and yet a receiver that comes on within a word takes a
start group out of the words. -/
theorem test_recommended_end_late_receiver :
    ({ small with endPattern := chips "11" } : Params).recommended = true ∧
    (RxUnit.run 4 RxUnit.fresh ((frameChips { small with endPattern := chips "11" } [0, 0] ++
      chips "000000").drop 20)).1.stored = [0xFFFF] := by decide +kernel

/-! ## For each statement with hypotheses, a case that meets them -/

theorem test_witness_StepRunsDecodedRequest :
    ({ base with inputs := [.request (encode (.wenc 5))] } : State).par.valid = true ∧
    ({ base with inputs := [.request (encode (.wenc 5))] } : State).inputs =
      .request (encode (.wenc 5)) :: [] ∧
    decode (encode (.wenc 5)) = .instr (.wenc 5) ∧ (Instr.wenc 5).wellFormed = true := by decide

theorem test_witness_StepTakesOtherInputs :
    base.par.valid = true ∧ base.inputs = [] ∧
    ({ base with inputs := [.tick true false] } : State).inputs = .tick true false :: [] ∧
    ({ base with inputs := [.readReg 6] } : State).inputs = .readReg 6 :: [] ∧
    ({ base with inputs := [.writeReg 0 1] } : State).inputs = .writeReg 0 1 :: [] := by decide

theorem test_witness_ReservedCodeEndsInvalidInput :
    ({ base with inputs := [.request (OpReq.bare 0xB)] } : State).par.valid = true ∧
    (OpReq.bare 0x0).op = 0x0#4 ∧ 0xB ≤ (OpReq.bare 0xB).op.toNat ∧ 0xB ≤ (OpReq.bare 0xF).op.toNat := by
  decide

theorem test_witness_DecodeEncodeAgree :
    (Instr.texp [1] (some ⟨-1, 0⟩)).wellFormed = true ∧
    ({ OpReq.bare 0xA with words := [7, 7] } : OpReq).wellFormed = true := by decide

theorem test_witness_WdecInvertsWenc :
    (0x3FF#16).toNat ≤ 0x3FF ∧ (0x000#16).toNat ≤ 0x3FF ∧ wencWord 0x3FF = wencWord 0x3FF := by decide

theorem test_witness_EncodedWordIsBalanced : (0x8005#16).toNat % 1024 = (0x005#16).toNat % 1024 := by decide

theorem test_witness_FtxResult :
    1 ≤ [0x155#16, 0x2AA#16].length ∧ [0x155#16, 0x2AA#16].length ≤ base.par.txCapacity ∧
    [0x155#16, 0x2AA#16][1]? = some 0x2AA#16 ∧ 23 < 24 := by decide

theorem test_witness_FtxRefusesEmptyOrLong :
    ([] : List Word) = [] ∧ base.par.txCapacity < [1#16, 2#16, 3#16].length := by decide

theorem test_witness_FrameRoundTrip :
    base.par.valid = true ∧
    occursIn [true, false, false, true, true, true] (base.par.endPattern.drop 2) = false ∧
    1 ≤ [1#16, 2#16, 3#16].length ∧ [1#16, 2#16, 3#16].length ≤ base.par.rxFrameMax ∧
    [1#16].length + [2#16].length + 2 ≤ base.par.rxSlots := by decide

theorem test_witness_TransmitterDrivesFrame :
    small.valid = true ∧ 1 ≤ [5#16].length ∧ [5#16].length ≤ small.txCapacity ∧
    armed.tx.txcnt.toNat + 1 = [5#16].length ∧ Memory.read armed.tx.txbuf 0 = wencWord 5 ∧
    (frameChips small [5])[42]? = some true ∧ (frameChips small [5]).length ≤ 43 := by decide

theorem test_witness_ReceiverStoreTimes :
    small.valid = true ∧ Memory.wf RxUnit.fresh.rxbuf = true ∧ RxUnit.fresh.hunting ∧
    1 ≤ [1#16, 2#16, 3#16].length ∧
    RxUnit.fresh.rxwp + [1#16, 2#16, 3#16].length + 1 ≤ small.rxSlots :=
  ⟨by decide, by decide, .inl rfl, by decide, by decide⟩

theorem test_witness_FrameSyncDetector :
    RxUnit.fresh.rxst = .quiet ∧
    (∀ k, k < (chips "0100111").length →
      (RxUnit.run 4 RxUnit.fresh ((chips "0100111").take k)).1.rxst ≠ .wsA) ∧
    (RxUnit.run 4 RxUnit.fresh (chips "0100111")).1.rxst = .wsA ∧
    false ∈ [false] ∧ chips "0100111" = [false] ++ [true, false, false, true, true, true] := by decide

theorem test_witness_LateReceiverStoresNothing :
    20 ≤ 24 * [0x3FF#16].length ∧ 0 ≤ 24 * ([] : List Word).length := by decide

theorem test_witness_WordStore :
    Memory.wf lastBit.rxbuf = true ∧ lastBit.rxst = .bitB ∧ lastBit.rxnb = 10 ∧ lastBit.rxwp < 4 ∧
    ({ lastBit with rxwp := 3 } : RxUnit).rxwp < 4 := by decide

theorem test_witness_EndMarkerDetector :
    (slotHalf false 0).rxst = .wsB ∧ ((slotHalf false 0).rxa = false ∧ true = true) ∧
    ¬((slotHalf true 3).rxa = false ∧ true = true) ∧ ¬((slotHalf false 3).rxa = false ∧ false = true) ∧
    (slotHalf true 3).rxwp < 4 := by decide

theorem test_witness_FullBufferStalls :
    (4 ≤ ({ lastBit with rxwp := 4 } : RxUnit).rxwp ∧ ({ lastBit with rxwp := 4 } : RxUnit).rxst = .bitB ∧
      ({ lastBit with rxwp := 4 } : RxUnit).rxnb = 10) ∧
    (4 ≤ (slotHalf true 4).rxwp ∧ (slotHalf true 4).rxst = .wsB ∧
      ¬((slotHalf true 4).rxa = false ∧ true = true)) ∧
    ({ RxUnit.fresh with rxst := .stall } : RxUnit).rxst = .stall ∧ RxUnit.reset.rxst = .off := by decide

theorem test_witness_ByteAndSlotSearchAgree :
    (polled 2 [(0, 0x0004), (1, 0xFFFF)] 2).rx.bufferOk small :=
  ⟨by decide, by decide, by decide⟩

theorem test_witness_TransactArms :
    [5#8, 0#8, 6#8, 0#8].length % 2 = 0 ∧ [5#8, 0#8, 6#8, 0#8].length ≠ 0 ∧
    [5#8, 0#8, 6#8, 0#8].length / 2 ≤ base.par.txCapacity ∧ base.par.txCapacity ≤ 65536 ∧
    Timeout.deadline (.ticks 0xFFFFFFFF) < 2 ^ base.par.timerBits ∧ base.tst = .idle := by decide

theorem test_witness_TransactRefusesBadOperands :
    [5#8].length % 2 = 1 ∧ ([] : List Byte).length / 2 = 0 ∧
    base.par.txCapacity < (List.replicate 6 5#8).length / 2 ∧
    2 ^ base.par.timerBits ≤ Timeout.deadline (.ms 1000000) := by decide

theorem test_witness_TransactWaitsOrFails :
    [5#8, 0#8].length % 2 = 0 ∧ [5#8, 0#8].length ≠ 0 ∧ [5#8, 0#8].length / 2 ≤ base.par.txCapacity ∧
    Timeout.deadline (.ms 100) < 2 ^ base.par.timerBits ∧
    (flight 1).tst ≠ .idle ∧ (flight 1).tst ≠ .halted ∧
    ({ base with tst := .halted } : State).tst = .halted := by decide

/-- The invariant holds of the small build after reset, whatever is to come. -/
theorem base_inv (l : List Input) : ({ base with inputs := l } : State).Inv where
  parameters := by show small.valid = true; decide
  pcntRange := by show (0#4).toNat ≤ 10; decide
  txBuffer := ⟨rfl, fun e he => absurd he (List.not_mem_nil)⟩
  rxBuffer := ⟨rfl, Nat.zero_le _, fun e he => absurd he (List.not_mem_nil)⟩
  rxCount := ⟨by show (0#4).toNat ≤ 11; decide, fun _ => by show (0#4).toNat ≤ 10; decide⟩
  txPosition := trivial
  unitsOff := fun _ => ⟨rfl, rfl, rfl⟩
  armedFits := fun hf => by cases hf
  armedClear := fun hf => by cases hf
  timerBound := fun hf => by cases hf
  heldBusy := fun hf => absurd rfl hf
  heldOk := fun r hr => absurd hr (List.not_mem_nil)
  transferIdle := fun hf => by cases hf
  ackBound := fun hf => by rcases hf with hf | hf <;> cases hf
  outcomeKnown := .inl rfl
  capturedLegal := ⟨rfl, Nat.zero_le _, fun w hw => absurd hw (List.not_mem_nil)⟩

/-- The invariant holds of the armed state. -/
theorem armed_inv : armed.Inv :=
  { base_inv [] with
    txBuffer := ⟨rfl, by show ∀ e ∈ armed.tx.txbuf, e.1 < small.txCapacity; decide⟩
    unitsOff := fun _ => ⟨rfl, rfl, rfl⟩
    armedFits := fun _ => by show (0#16).toNat < small.txCapacity; decide
    armedClear := fun _ => ⟨rfl, rfl⟩
    timerBound := fun hf => by cases hf
    heldBusy := fun hf => absurd rfl hf
    ackBound := fun hf => by rcases hf with hf | hf <;> cases hf
    transferIdle := fun hf => by cases hf }

/-- The invariant holds in flight, up to the last poll. -/
theorem flight_inv (timer : Nat) (h : timer ≤ 8) : (flight timer).Inv where
  parameters := by show small.valid = true; decide
  pcntRange := by show (0#4).toNat ≤ 10; decide
  txBuffer := ⟨rfl, by show ∀ e ∈ armed.tx.txbuf, e.1 < small.txCapacity; decide⟩
  rxBuffer := ⟨rfl, Nat.zero_le _, fun e he => absurd he (List.not_mem_nil)⟩
  rxCount := ⟨by show (0#4).toNat ≤ 11; decide, fun _ => by show (0#4).toNat ≤ 10; decide⟩
  txPosition := by
    show (1#5).toNat ≤ 9 ∧ (0#16) = 0 ∧ (0#16).toNat < small.txCapacity
    decide
  unitsOff := fun hf => absurd rfl hf
  armedFits := fun hf => by cases hf
  armedClear := fun hf => by cases hf
  timerBound := fun _ => Nat.le_trans h (by decide : 8 ≤ lastPoll small 7)
  heldBusy := fun hf => absurd rfl hf
  heldOk := fun r hr => absurd hr (List.not_mem_nil)
  transferIdle := fun hf => by cases hf
  ackBound := fun hf => by rcases hf with hf | hf <;> cases hf
  outcomeKnown := .inl rfl
  capturedLegal := ⟨rfl, Nat.zero_le _, fun w hw => absurd hw (List.not_mem_nil)⟩

theorem test_witness_ArmedTickStartsBothUnits : armed.Inv ∧ armed.tst = .armed ∧ 0 < armed.timeout :=
  ⟨armed_inv, rfl, by decide⟩

theorem test_witness_TickWithoutPoll :
    (flight 7).Inv ∧ (flight 7).tst = .inFlight ∧ (flight 7).timer % (flight 7).par.pollTicks ≠ 0 :=
  ⟨flight_inv 7 (by decide), rfl, by decide⟩

/-- A request that passes the checks of R152 in the small build. -/
def heldRequest : TransactReq := ⟨[5, 0, 6, 0], 9⟩

/-- The terminator in the first slot with nothing held, and in the last one with a request held. -/
theorem test_witness_PollFindsTerminator :
    (small.valid = true ∧ (polled 0 [(0, 0xFFFF)] 1).par = small ∧
      (polled 0 [(0, 0xFFFF)] 1).tst = .inFlight ∧
      (polled 0 [(0, 0xFFFF)] 1).timer % (polled 0 [(0, 0xFFFF)] 1).par.pollTicks = 0 ∧
      (polled 0 [(0, 0xFFFF)] 1).held = [] ∧ 0 < (polled 0 [(0, 0xFFFF)] 1).par.rxSlots ∧
      Memory.read (polled 0 [(0, 0xFFFF)] 1).rx.rxbuf 0 = terminator) ∧
    (∀ r ∈ ({ polled 8 [(0, 1), (3, 0xFFFF)] 4 with held := [heldRequest] } : State).held,
      requestOk small r = true) ∧
    (polled 8 [(0, 1), (3, 0xFFFF)] 4).timer % (polled 8 [(0, 1), (3, 0xFFFF)] 4).par.pollTicks = 0 ∧
    3 < (polled 8 [(0, 1), (3, 0xFFFF)] 4).par.rxSlots ∧
    Memory.read (polled 8 [(0, 1), (3, 0xFFFF)] 4).rx.rxbuf 3 = terminator ∧
    ∀ i, i < 3 → Memory.read (polled 8 [(0, 1), (3, 0xFFFF)] 4).rx.rxbuf i ≠ terminator := by decide

/-- At the deadline with a request held, and one poll before it. -/
theorem test_witness_PollFindsNoTerminator :
    (({ flight 8 with held := [heldRequest] } : State).tst = .inFlight ∧
      (flight 8).timer % (flight 8).par.pollTicks = 0 ∧
      (∀ i, i < (flight 8).par.rxSlots → Memory.read (flight 8).rx.rxbuf i ≠ terminator) ∧
      (flight 8).timeout ≤ (flight 8).timer ∧ small.valid = true ∧
      ∀ r ∈ ({ flight 8 with held := [heldRequest] } : State).held, requestOk small r = true) ∧
    ((flight 6).timer % (flight 6).par.pollTicks = 0 ∧ (flight 6).timer < (flight 6).timeout) ∧
    (flight 6).Inv :=
  ⟨by decide, by decide, flight_inv 6 (by decide)⟩

/-- P6: an exit poll with a request held arms it, with its own words and deadline. -/
theorem test_held_request_armed :
    look (tick false true { flight 8 with held := [⟨[2, 0], 500⟩] })
      (fun s => (s.tst, s.timeout, s.outcome, s.tx.txbuf)) =
      some (.armed, 500, 3, [(0, 0x6AAA9A00)]) := by decide

/-- Both ways the third hypothesis is met. -/
theorem test_witness_TimeoutNeverEarly :
    (flight 8).tst = .inFlight ∧
    look (tick false true (flight 8)) (·.results) =
      some ((flight 8).results ++ [.error 0x6 .receiveTimeout]) ∧
    look (tick false false { flight 8 with par := { small with teardownTicks := 1, abortAckTicks := 1 } })
      (·.tst) = some .timedOut := by decide

theorem test_witness_AcknowledgeEndsTeardown :
    ((waiting .completed []).tst = .completed ∧ (waiting .completed []).par.valid = true) ∧
    (waiting .timedOut [heldRequest]).tst = .timedOut ∧
    ∀ r ∈ (waiting .timedOut [heldRequest]).held,
      requestOk (waiting .timedOut [heldRequest]).par r = true := by decide

/-- The wait is over at once with `ABORT_ACK_TICKS = 0`, and goes on with a larger one. -/
theorem test_witness_WithheldAcknowledgeIsFatal :
    (waiting .completed []).tst = .completed ∧ (waiting .timedOut []).tst = .timedOut ∧
    (waiting .completed []).par.abortAckTicks ≤ (waiting .completed []).ackWait ∧
    ({ waiting .timedOut [] with
        par := { small with teardownTicks := 1, abortAckTicks := 1 } } : State).ackWait <
      ({ waiting .timedOut [] with
        par := { small with teardownTicks := 1, abortAckTicks := 1 } } : State).par.abortAckTicks := by
  decide

theorem test_witness_HaltedIsSticky :
    ({ base with tst := .halted, inputs := [.tick true true] } : State).tst = .halted ∧
    look (step { base with tst := .halted, inputs := [.tick true true] }) (·.tst) = some .halted ∧
    ({ base with tst := .halted, inputs := [.tick true true] } : State).inputs.head? ≠ some .rst := by
  decide

theorem test_witness_NoCancel :
    ({ flight 1 with inputs := [.writeReg 0 0] } : State).tst ≠ .idle ∧
    ({ flight 1 with inputs := [.writeReg 0 0] } : State).tst ≠ .halted ∧
    ({ flight 1 with inputs := [.writeReg 0 0] } : State).inputs = .writeReg 0 0 :: [] ∧
    Input.writeReg 0 0 ≠ .rst ∧
    look (step { flight 1 with inputs := [.writeReg 0 0] }) (·.tst) = some .inFlight := by decide

theorem test_witness_NoCancel_form (c a : Bool) : Input.writeReg 0 0 ≠ .tick c a := nofun

theorem test_witness_CodecOperationsLeaveEngineAlone :
    isCodecOperation (.tdec [1]) = true ∧ isCodecOperation (.frx []) = true := by decide

/-- From `TIMER = 1` with `T = 7` and a poll every second tick, the last poll is tick 8. -/
theorem test_witness_InFlightEndsInTime :
    ({ flight 1 with inputs := lineTicks (fun _ => false) true 8 } : State).Inv ∧
    ({ flight 1 with inputs := lineTicks (fun _ => false) true 8 } : State).tst = .inFlight ∧
    ∃ ts : List (Chip × Bool),
      ts.length = lastPoll small 7 - 1 + 1 ∧
      ts.map (fun x => Input.tick x.1 x.2) <+: lineTicks (fun _ => false) true 8 :=
  ⟨{ flight_inv 1 (by decide) with }, rfl, List.replicate 8 (false, true), by decide, by decide⟩

/-- A transaction with `T = 3` on an idle line: polls at 0, 2 and 4, so it ends at tick 4; with
`ABORT_ACK_TICKS = 1` and no acknowledge, one tick later. -/
theorem test_witness_TransactMatchesFunction :
    base.tst = .idle ∧ (0 : Nat) = (if true then 0 else base.par.abortAckTicks) ∧
    (1 : Nat) = (if false then 0 else ({ small with teardownTicks := 1, abortAckTicks := 1 } : Params).abortAckTicks) ∧
    requestOk base.par { bytes := [5, 0], deadline := Timeout.deadline (.ticks 3) } = true ∧
    exitTick base.par (fun _ => false) (Timeout.deadline (.ticks 3)) = 4 ∧
    transactFunction base.par [5, 0] (.ticks 3) (fun _ => false) true = .error 0x6 .receiveTimeout := by
  decide

theorem test_witness_TransactMatchesFunction_inv (l : List Input) :
    ({ base with inputs := l } : State).Inv := base_inv l

theorem test_witness_TexpResult :
    0 < 4 ∧ 2 < [1#16, 2#16, 3#16].length ∧
    ({ small with expandMaxWords := some 6 } : Params).expandMaxWords = some 6 ∧
    2 + 4 * ([1#16, 2#16, 3#16].length - 2) ≤ 6 := by decide

theorem test_witness_BadDescriptorIsInvalidInput :
    (-1 : Int) < 0 ∧ (0 < (2 : Int) ∧ (-1 : Int) < 0) ∧ (([1#16, 2#16, 3#16].length : Nat) : Int) ≤ 3 ∧
    (({ small with expandMaxWords := some 5 } : Params).expandMaxWords = some 5 ∧
      ((5 : Nat) : Int) < 2 + 4 * (([1#16, 2#16, 3#16].length : Nat) - 2 : Int)) := by decide

theorem test_witness_TencResult :
    look (exec (.texp [5, 0] (some ⟨4, 1⟩)) base) (·.results) =
      some [.ok 0x7 (.words [5, 0, 0, 0, 0])] ∧
    exec (.texp [5, 0] none) base = .next { base with
      outcome := 0, results := base.results ++ [.ok 0x7#4 (.words [5, 0])] } ∧
    exec (.texp [5, 0] (some ⟨4, 2⟩)) base = .next { base with
      outcome := 1, results := base.results ++ [.error 0x7#4 .invalidInput] } :=
  ⟨by decide, rfl, rfl⟩

theorem test_witness_TencCompletes :
    (0 : Int) ≤ 4 ∧ (0 : Int) ≤ 1 ∧ (1 : Int) < [5#16, 0#16].length ∧ base.par.expandMaxWords = none := by
  decide

theorem test_witness_TdecResult :
    [1#8, 2#8, 3#8].length % 2 = 1 ∧ [1#8, 2#8].length % 2 = 0 ∧
    [1#8, 2#8][2 * 0]? = some 1#8 ∧ [1#8, 2#8][2 * 0 + 1]? = some 2#8 := by decide

theorem test_witness_TcmpResult :
    2 ≤ 4 ∧ [5#16].getLast? ≠ some 0#16 ∧ ([] : List Word).getLast? ≠ some 7#16 := by decide

theorem test_witness_TcmpResult_no_run (pre : List Word) (w : Word) : [1#16] ≠ pre ++ [w, w] := by
  intro h
  have := congrArg List.length h
  simp at this

theorem test_witness_TransportRoundTrip : [1#8, 2#8, 3#8, 4#8].length % 2 = 0 := by decide

/-- The small build with a limit of two words on expansion. -/
def limited : State := State.resetWith { small with expandMaxWords := some 2 }

/-- No limit, a run of just the limit, no run above the limit, and a run one word above it. -/
theorem test_witness_DescriptorInvisibleToDecode :
    exec (.texp [5, 0] (some ⟨4, 1⟩)) base = .next (base.endOk 0x7#4 (.words [5, 0, 0, 0, 0])) ∧
    base.par.expandMaxWords = none ∧ limited.par.expandMaxWords = some 2 ∧
    [7#16, 7#16].length ≤ 2 ∧ (∀ pre w, [1#16, 2#16, 3#16] ≠ pre ++ [w, w]) ∧
    2 < [5#16, 7#16, 7#16].length ∧ ∃ pre w, [5#16, 7#16, 7#16] = pre ++ [w, w] := by
  refine ⟨rfl, rfl, rfl, by decide, fun pre w h => ?_, by decide, [5], 7, rfl⟩
  have := congrArg (fun l => l.reverse.take 2) h
  simp at this
  exact absurd (this.1.trans this.2.symm) (by decide)

/-- Log entry 33: above a finite limit, `TENC` of what `TCMP` answers is refused and `TENC` of the sequence is
not. -/
theorem test_limit_refuses_compressed :
    look (exec (.tcmp [5, 7, 7]) limited) (·.results) = some [.ok 0xA (.compressed [5, 7] ⟨2, 1⟩)] ∧
    look (exec (.tenc [5, 7] (some ⟨2, 1⟩)) limited) (·.outcome) = some 1 ∧
    look (exec (.tenc [5, 7, 7] none) limited) (·.outcome) = some 0 := by decide

/-- A tick that counts a mismatch, and one input that is not `rst`. -/
theorem test_witness_MismatchCounterOnlyGrows :
    look (step { base with inputs := [.request (encode (.wdec 0x6AAA6600))] }) (·.perrcnt) = some 1 ∧
    ({ base with inputs := [.request (encode (.wdec 0x6AAA6600))] } : State).inputs.head? ≠
      some .rst := by decide

theorem test_witness_ResetEvent :
    ({ flight 3 with inputs := [.rst] } : State).par.valid = true ∧
    ({ flight 3 with inputs := [.rst] } : State).inputs = .rst :: [] := by decide

theorem test_witness_InvariantHoldsAtReset :
    small.valid = true ∧
    ({ small with endPattern := List.replicate 32 false, txCapacity := 65536, pollTicks := 1 } :
      Params).valid = true := by decide

/-- A step from a state in flight that meets the invariant. -/
theorem test_witness_StepKeepsInvariant :
    ({ flight 1 with inputs := [.tick true true] } : State).Inv ∧
    look (step { flight 1 with inputs := [.tick true true] }) (·.timer) = some 2 :=
  ⟨{ flight_inv 1 (by decide) with }, by decide⟩

theorem test_witness_NoStepStops : (flight 8).Inv := flight_inv 8 (by decide)

/-- The invariant holds at a poll with one word and the terminator received. -/
theorem polled_inv (l : List Input) :
    ({ polled 8 [(0, 4), (1, 0xFFFF)] 2 with inputs := l } : State).Inv :=
  { flight_inv 8 (by decide) with
    rxBuffer := ⟨rfl, by show 2 ≤ small.rxSlots; decide, by
      show ∀ e ∈ [(0, 4#16), (1, 0xFFFF#16)], e.1 < 2 ∧ (e.2 = terminator ∨ e.2.toNat ≤ 0x3FF)
      decide⟩
    unitsOff := fun hf => absurd rfl hf
    armedClear := fun hf => by cases hf }

/-- A step that hands the host the bytes of a transaction. -/
theorem test_witness_ReturnedFramesAreLegal :
    ({ polled 8 [(0, 4), (1, 0xFFFF)] 2 with inputs := [.tick true true] } : State).Inv ∧
    look (step { polled 8 [(0, 4), (1, 0xFFFF)] 2 with inputs := [.tick true true] }) (·.results) =
      some [.ok 0x6 (.bytes [4, 0])] :=
  ⟨polled_inv _, by decide⟩

/-- A frame with a descriptor as a request body, a refused one, and the forms of reply. -/
theorem test_witness_TunnelClassification :
    exec (.tenc [5, 0] (some ⟨2, 1⟩)) base = .next (base.endOk 0x8#4 (.bytes [5, 0, 0, 0, 0, 0])) ∧
    exec (.tenc [5, 0] (some ⟨2, 2⟩)) base = .next (base.raiseError 0x8#4 .invalidInput) ∧
    [4#8, 0#8].length % 2 = 0 ∧ [4#8].length % 2 = 1 ∧ (500 : Nat) ≠ 200 ∧ (500 : Nat) ≠ 408 :=
  ⟨rfl, rfl, rfl, rfl, by decide, by decide⟩

/-- P4: the request body of `[0x0005]`, and the answer 200 with the body `04 00`. -/
theorem test_tunnel_p4 :
    (TunnelRequest.ofFrame none [0x0005] none (some 100) none).map (·.operation) =
      some (.transact [0x05, 0x00] (.ms 100)) ∧
    serverReply (.ok 0x6 (.bytes [0x04, 0x00])) = .response 200 [0x04, 0x00] := ⟨rfl, rfl⟩

/-- The build whose teardown waits one tick for the acknowledge. -/
def patient : Params := { small with teardownTicks := 1, abortAckTicks := 1 }

/-- A terminator found and none found, with a wait and without one. -/
theorem test_witness_ExitPollWithoutAcknowledge :
    ((flight 8).tst = .inFlight ∧ (flight 8).timer % (flight 8).par.pollTicks = 0 ∧
      (flight 8).timeout ≤ (flight 8).timer ∧ (flight 8).par.abortAckTicks = 0 ∧
      ∀ i, i < patient.rxSlots → Memory.read (flight 8).rx.rxbuf i ≠ terminator) ∧
    (1 < patient.rxSlots ∧
      Memory.read (polled 2 [(0, 4), (1, 0xFFFF)] 2).rx.rxbuf 1 = terminator ∧
      (∀ i, i < 1 → Memory.read (polled 2 [(0, 4), (1, 0xFFFF)] 2).rx.rxbuf i ≠ terminator) ∧
      0 < ({ polled 2 [(0, 4), (1, 0xFFFF)] 2 with par := patient } : State).par.abortAckTicks) := by
  decide

/-- The captured bytes of an exit poll without the acknowledge, at slot 1. -/
theorem test_captured_result :
    look (tick false false { polled 2 [(0, 4), (1, 0xFFFF)] 2 with par := patient })
      (fun s => (s.tst, s.captured, s.ackWait)) = some (.completed, [4, 0], 1) := by decide

theorem test_witness_ZeroDeadlineEndsAtOnce :
    ({ armed with timeout := 0 } : State).Inv ∧ ({ armed with timeout := 0 } : State).tst = .armed ∧
    ({ armed with timeout := 0 } : State).timeout = 0 :=
  ⟨{ armed_inv with timerBound := fun hf => by cases hf }, rfl, rfl⟩

end Sys2Proof.Tests
end

section
/-!
PROOFS. What a step, a tick and a codec operation can do, said once for the statements of this family.
-/

namespace Sys2Proof.Machine

/-! ### The step and its next input -/

/-- With an input listed, a valid build lets that input take effect (log entry 1). -/
theorem step_cons {s : State} {x : Input} {rest : List Input} (hp : s.par.valid = true)
    (hin : s.inputs = x :: rest) : step s = applyInput x { s with inputs := rest } := by
  simp only [step, runStep, hp, if_true, takeInput, hin]

/-- With no input listed, a valid build ticks with a free chip and a free acknowledge (R242, log entry 4). -/
theorem step_nil {s : State} (hp : s.par.valid = true) (hin : s.inputs = []) :
    step s = tick (Config.envLineIn s.freeCount) (Config.envAbortOk s.freeCount)
      { s with freeCount := s.freeCount + 1 } := by
  simp only [step, runStep, hp, if_true, takeInput, hin]

/-- A request that decodes runs its operation (R30, R80). -/
theorem acceptRequest_instr {r : OpReq} {i : Instr} (s : State) (hd : decode r = .instr i) :
    acceptRequest r s = exec i s := by
  simp only [acceptRequest, hd]

/-- Everything a step can do: on the state `w` without its next input, a tick, an operation, the end of a reserved
code, a register read, nothing (a register write), or `rst`. -/
theorem step_cases {s u : State} (h : step s = .next u) :
    ∃ w : State, w = { s with inputs := s.inputs.tail, freeCount := w.freeCount } ∧
      ((∃ c a, tick c a w = .next u) ∨ (∃ i, exec i w = .next u) ∨
        (∃ op, u = w.raiseError op .invalidInput) ∨ (∃ r, u = w.reply r) ∨ u = w ∨
        (s.inputs.head? = some .rst ∧ u = w.rst)) := by
  have hp := (step_next s u h).1
  rcases hin : s.inputs with _ | ⟨x, rest⟩
  · rw [step_nil hp hin] at h
    exact ⟨_, by simp [hin], .inl ⟨_, _, h⟩⟩
  · rw [step_cons hp hin] at h
    refine ⟨{ s with inputs := rest }, by simp, ?_⟩
    cases x with
    | tick c a => exact .inl ⟨c, a, h⟩
    | request r =>
      rcases acceptRequest_cases r { s with inputs := rest } with ⟨i, -, e⟩ | ⟨op, -, e⟩
      · exact .inr (.inl ⟨i, e.symm.trans h⟩)
      · cases e.symm.trans h
        exact .inr (.inr (.inl ⟨op, rfl⟩))
    | readReg n =>
      cases h
      exact .inr (.inr (.inr (.inl ⟨_, rfl⟩)))
    | writeReg n v =>
      cases h
      exact .inr (.inr (.inr (.inr (.inl rfl))))
    | rst =>
      cases h
      exact .inr (.inr (.inr (.inr (.inr ⟨rfl, rfl⟩))))

/-! ### The ticks -/

/-- Everything a tick can be, by `TST` (R47, R154, R155, R161). -/
theorem tick_cases (c : Chip) (a : Bool) (s : State) :
    ((s.tst = .idle ∨ s.tst = .halted) ∧ tick c a s = .next s.quietTick) ∨
    (s.tst = .armed ∧ tick c a s = inFlightTick c a s.start) ∨
    (s.tst = .inFlight ∧ tick c a s = inFlightTick c a s) ∨
    ((s.tst = .completed ∨ s.tst = .timedOut) ∧ tick c a s = teardownTick a s.quietTick) := by
  cases h : s.tst <;> simp [tick, h]

/-- An arm that answers a next state answers the armed state, and its frame fits `TXBUF` (R153). -/
theorem armRequest_next {r : TransactReq} {s u : State} (h : armRequest r s = .next u) :
    r.bytes.length / 2 ≤ s.par.txCapacity ∧ u = s.arm r := by
  unfold armRequest at h
  split at h
  · cases h
    exact ⟨by assumption, rfl⟩
  · cases h

/-- A line tick that answers a next state steps both units and `TIMER`, and counts the receiver's mismatch
(R155). -/
theorem lineTick_next {c : Chip} {s u : State} (h : lineTick c s = .next u) :
    ∃ t, TxUnit.tick s.par s.tx = .ok t ∧
      u = ({ s with
        tx := t
        rx := (RxUnit.tick s.par.rxSlots c s.rx).1
        timer := s.timer + 1 } : State).countMismatch (RxUnit.tick s.par.rxSlots c s.rx).2 := by
  cases ht : TxUnit.tick s.par s.tx with
  | ok t =>
    rw [lineTick_ok c s t ht] at h
    cases h
    exact ⟨t, rfl, rfl⟩
  | fault f => simp [lineTick, ht] at h

/-! ### The codec operations -/

/-- What an operation other than `TRANSACT` may change from `s` to `u`: `PCNT` to the count of a payload, `PERRCNT`
by one mismatch, `OUTCOME` to success, `InvalidInput` or `InvalidFrame`, and one result more. -/
structure CodecEffect (s u : State) : Prop where
  frame : u = { s with
    pcnt := u.pcnt, perrcnt := u.perrcnt, outcome := u.outcome, results := u.results }
  pcnt : u.pcnt = s.pcnt ∨ ∃ d, u.pcnt = pcntOf d
  perrcnt : u.perrcnt = s.perrcnt ∨ u.perrcnt = saturatingInc s.perrcnt
  outcome : u.outcome = 0 ∨ u.outcome = 1 ∨ u.outcome = 2
  response : ∃ r, u.results = s.results ++ [r]

/-- Success alone is such a change. -/
theorem CodecEffect.endOk (s : State) (op : BitVec 4) (v : OpValue) : CodecEffect s (s.endOk op v) where
  frame := rfl
  pcnt := .inl rfl
  perrcnt := .inl rfl
  outcome := .inl rfl
  response := ⟨_, rfl⟩

/-- Ending with `InvalidInput` or `InvalidFrame` is such a change. -/
theorem CodecEffect.raiseError (s : State) (op : BitVec 4) (k : ErrKind)
    (hk : k = .invalidInput ∨ k = .invalidFrame) : CodecEffect s (s.raiseError op k) where
  frame := rfl
  pcnt := .inl rfl
  perrcnt := .inl rfl
  outcome := .inr (hk.imp (congrArg ErrKind.code) (congrArg ErrKind.code))
  response := ⟨_, rfl⟩

/-- Counting a payload in `PCNT` and a mismatch in `PERRCNT`, then success, is such a change (R90, R92, R96). -/
theorem CodecEffect.counted (s : State) (d : Payload) (b : Bool) (op : BitVec 4) (v : OpValue) :
    CodecEffect s ((({ s with pcnt := pcntOf d } : State).countMismatch b).endOk op v) where
  frame := rfl
  pcnt := .inr ⟨d, rfl⟩
  perrcnt := by cases b with
    | false => exact .inl rfl
    | true => exact .inr rfl
  outcome := .inl rfl
  response := ⟨_, rfl⟩

/-- Every operation other than `TRANSACT` completes in every state, with no other change (R30, R162). -/
theorem exec_codecEffect {i : Instr} (s : State) (hi : isCodecOperation i = true) :
    ∃ u, exec i s = .next u ∧ CodecEffect s u := by
  cases i with
  | parity v => exact ⟨_, rfl, .counted s (payload v) false _ _⟩
  | wenc v => exact ⟨_, rfl, .counted s (payload v) false _ _⟩
  | wdec c => exact ⟨_, rfl, .counted s (wdecPayload c) _ _ _⟩
  | ftx words =>
    simp only [exec, execFtx]
    split
    · exact ⟨_, rfl, .raiseError s _ _ (.inl rfl)⟩
    · exact ⟨_, rfl, .endOk s _ _⟩
  | frx chips => exact ⟨_, rfl, .endOk s _ _⟩
  | transact bytes timeout => cases hi
  | texp words desc =>
    simp only [exec, execTexp]
    split
    · exact ⟨_, rfl, .raiseError s _ _ (.inl rfl)⟩
    · exact ⟨_, rfl, .endOk s _ _⟩
  | tenc words desc =>
    simp only [exec, execTenc]
    split
    · exact ⟨_, rfl, .raiseError s _ _ (.inl rfl)⟩
    · exact ⟨_, rfl, .endOk s _ _⟩
  | tdec bytes =>
    simp only [exec, execTdec]
    split
    · exact ⟨_, rfl, .raiseError s _ _ (.inr rfl)⟩
    · exact ⟨_, rfl, .endOk s _ _⟩
  | tcmp words => exact ⟨_, rfl, .endOk s _ _⟩

/-- Everything an operation can do: `TRANSACT`, or the effect of a codec operation. -/
theorem exec_cases {i : Instr} {s u : State} (h : exec i s = .next u) :
    (∃ b t, execTransact b t s = .next u) ∨ CodecEffect s u := by
  cases hi : isCodecOperation i with
  | true =>
    obtain ⟨u', e, he⟩ := exec_codecEffect s hi
    cases e.symm.trans h
    exact .inr he
  | false =>
    cases i with
    | transact b t => exact .inl ⟨b, t, h⟩
    | _ => cases hi

end Sys2Proof.Machine
end

section
/-!
PROOFS. The mismatch counter along a step (R21).
-/

namespace Sys2Proof.Machine

/-- Serving a held request leaves `PERRCNT` alone. -/
theorem serveHeld_perrcnt {s u : State} (h : serveHeld s = .next u) : u.perrcnt = s.perrcnt := by
  rcases serveHeld_cases s with ⟨-, e⟩ | ⟨r, rest, -, e⟩ <;> rw [e] at h
  · cases h
    rfl
  · obtain ⟨-, rfl⟩ := armRequest_next h
    rfl

/-- Teardown leaves `PERRCNT` alone. -/
theorem teardownTick_perrcnt {a : Bool} {s u : State} (h : teardownTick a s = .next u) :
    u.perrcnt = s.perrcnt := by
  rcases teardownTick_cases a s with ⟨-, e⟩ | ⟨-, -, e⟩ | ⟨-, -, e⟩ <;> rw [e] at h
  · rw [serveHeld_perrcnt h, State.giveBack_eq]
  · cases h
    rfl
  · cases h
    rfl

/-- A tick in `InFlight` counts at most the mismatch of one word store (R132, R155). -/
theorem inFlightTick_perrcnt {c : Chip} {a : Bool} {s u : State} (h : inFlightTick c a s = .next u) :
    u.perrcnt = s.perrcnt ∨ u.perrcnt = saturatingInc s.perrcnt := by
  rcases inFlightTick_cases c a s with ⟨e, -⟩ | ⟨-, j, -, e⟩ | ⟨-, -, e⟩ <;> rw [e] at h
  · obtain ⟨t, -, rfl⟩ := lineTick_next h
    rw [State.countMismatch_perrcnt]
    split
    · exact .inr rfl
    · exact .inl rfl
  · exact .inl (teardownTick_perrcnt (s := s.exitPoll .completed (s.resultBytes j)) h)
  · exact .inl (teardownTick_perrcnt (s := s.exitPoll .timedOut []) h)

/-- A tick counts at most one mismatch. -/
theorem tick_perrcnt {c : Chip} {a : Bool} {s u : State} (h : tick c a s = .next u) :
    u.perrcnt = s.perrcnt ∨ u.perrcnt = saturatingInc s.perrcnt := by
  rcases tick_cases c a s with ⟨-, e⟩ | ⟨-, e⟩ | ⟨-, e⟩ | ⟨-, e⟩ <;> rw [e] at h
  · cases h
    exact .inl rfl
  · exact inFlightTick_perrcnt (s := s.start) h
  · exact inFlightTick_perrcnt h
  · exact .inl (teardownTick_perrcnt (s := s.quietTick) h)

/-- `TRANSACT` as it is issued leaves `PERRCNT` alone. -/
theorem execTransact_perrcnt {b : List Byte} {t : Timeout} {s u : State}
    (h : execTransact b t s = .next u) : u.perrcnt = s.perrcnt := by
  rcases execTransact_cases b t s with ⟨-, e⟩ | ⟨-, ⟨-, e⟩ | ⟨-, e⟩ | ⟨-, -, e⟩⟩ <;>
    cases e.symm.trans h <;> rfl

/-- A step that is not `rst` counts at most one mismatch (R21, R97, R132). -/
theorem step_perrcnt {s u : State} (h : step s = .next u) (hr : s.inputs.head? ≠ some .rst) :
    u.perrcnt = s.perrcnt ∨ u.perrcnt = saturatingInc s.perrcnt := by
  obtain ⟨w, hw, hcase⟩ := step_cases h
  have hs : w.perrcnt = s.perrcnt := by rw [hw]
  rw [← hs]
  rcases hcase with ⟨c, a, h⟩ | ⟨i, h⟩ | ⟨op, rfl⟩ | ⟨r, rfl⟩ | rfl | ⟨hrst, -⟩
  · exact tick_perrcnt h
  · rcases exec_cases h with ⟨b, t, h⟩ | he
    · exact .inl (execTransact_perrcnt h)
    · exact he.perrcnt
  · exact .inl rfl
  · exact .inl rfl
  · exact .inl rfl
  · exact absurd hrst hr

/-- The saturating increment adds one, or nothing at 0xFFFF. -/
theorem saturatingInc_bounds (n : BitVec 16) :
    n.toNat ≤ (saturatingInc n).toNat ∧ (saturatingInc n).toNat ≤ n.toNat + 1 := by
  unfold saturatingInc
  split
  · omega
  · have hn : n.toNat ≠ 0xFFFF := fun h => ‹¬ _› (BitVec.eq_of_toNat_eq h)
    have := txidx_succ n (by have := n.isLt; omega)
    omega

end Sys2Proof.Machine
end

section
/-!
PROOFS. The invariant along a step: each shared operation of the engine keeps it.
-/

namespace Sys2Proof.Machine

open Sys2Proof.Config (Params)

/-! ### What the fields of the invariant need -/

/-- Counting bits adds at most one for each bit. -/
theorem countOnes_le (bits : List Bool) (n : BitVec 4) :
    (countOnes bits n).toNat ≤ n.toNat + bits.length := by
  induction bits generalizing n with
  | nil => simp [countOnes]
  | cons b bits ih =>
    have hstep : (if b then n + 1 else n).toNat ≤ n.toNat + 1 := by
      have h1 : (1 : BitVec 4).toNat = 1 := rfl
      split
      · rw [BitVec.toNat_add]
        omega
      · omega
    have hrest := ih (if b then n + 1 else n)
    simp only [countOnes, List.foldl_cons, List.length_cons] at hrest ⊢
    omega

/-- `PCNT` over a payload is at most 10 (R10). -/
theorem pcntOf_le (d : Payload) : (pcntOf d).toNat ≤ 10 := by
  have := countOnes_le (payloadBits d) 0
  simpa [pcntOf] using this

/-- An idle transmitter is in no segment. -/
theorem TxUnit.positionOk_of_idle {p : Params} {tx : TxUnit} (h : tx.txst = .idle) :
    tx.positionOk p := by
  simp [TxUnit.positionOk, h]

/-- A stopped receiver has no bits of a word to come. -/
theorem RxUnit.halt_countOk {rx : RxUnit} (h : rx.countOk) : rx.halt.countOk :=
  ⟨h.1, by simp⟩

/-- Reading the bytes of a frame gives its words back (R63, R67). -/
theorem wordsOfBytes_tbytes (ws : List Word) : wordsOfBytes (tbytes ws) = ws := by
  induction ws with
  | nil => rfl
  | cons w ws ih => rw [tbytes_cons, wordsOfBytes, wordOfBytes_split, ih]

/-- What a range of slots lists is read from a slot of the range. -/
theorem Memory.mem_readList {w : Nat} {m : SlotMem w} {i n : Nat} {v : BitVec w}
    (h : v ∈ Memory.readList m i n) : ∃ k, k < n ∧ v = Memory.read m (i + k) := by
  obtain ⟨k, hk⟩ := List.mem_iff_getElem?.1 h
  have hlt : k < n := by
    obtain ⟨hlt, -⟩ := List.getElem?_eq_some_iff.1 hk
    simpa using hlt
  rw [Memory.getElem?_readList _ _ _ _ hlt] at hk
  exact ⟨k, hlt, (Option.some.inj hk).symm⟩

/-- Every slot of a receive buffer reads as the terminator or as at most 0x03FF (R43). -/
theorem RxUnit.bufferOk.read_legal {p : Params} {rx : RxUnit} (h : rx.bufferOk p) (i : Nat) :
    Memory.read rx.rxbuf i = terminator ∨ (Memory.read rx.rxbuf i).toNat ≤ 0x3FF := by
  obtain ⟨-, -, hval⟩ := h
  by_cases h0 : Memory.read rx.rxbuf i = 0
  · exact .inr (by simp [h0])
  · exact (hval _ (Memory.mem_of_read_ne _ _ h0)).2

/-- The empty result is legal. -/
theorem resultLegal_nil (p : Params) : resultLegal p [] :=
  ⟨rfl, Nat.zero_le _, fun _ hw => absurd hw List.not_mem_nil⟩

/-- The slots before the first terminator are a legal result (R157, R159). -/
theorem State.resultBytes_legal {s : State} {j : Nat} (hb : s.rx.bufferOk s.par)
    (hj : j < s.par.rxSlots) (hfirst : ∀ i, i < j → Memory.read s.rx.rxbuf i ≠ terminator) :
    resultLegal s.par (s.resultBytes j) := by
  have hlen : (s.resultBytes j).length = 2 * j := by simp [State.resultBytes]
  have hslots : s.par.rxSlots = s.par.rxFrameMax + 1 := rfl
  refine ⟨by omega, by omega, fun w hw => ?_⟩
  rw [State.resultBytes, wordsOfBytes_tbytes] at hw
  obtain ⟨k, hk, rfl⟩ := Memory.mem_readList hw
  exact (hb.read_legal _).resolve_left (hfirst _ (by omega))

/-- The codes of an operation's end that a codec operation can leave in `OUTCOME` are known (R200). -/
theorem outcome_known_of_codec {o : BitVec 16} (h : o = 0 ∨ o = 1 ∨ o = 2) :
    o = 0 ∨ ∃ k : ErrKind, k ≠ .interfaceError ∧ o = k.code := by
  rcases h with h | h | h
  · exact .inl h
  · exact .inr ⟨.invalidInput, by simp, h⟩
  · exact .inr ⟨.invalidFrame, by simp, h⟩

/-! ### The acts of the host -/

/-- The invariant does not look at the inputs, the results, `PERRCNT` and the counter of free values, and of `PCNT`
and `OUTCOME` it asks only their ranges. -/
theorem State.Inv.of_frame {s u : State} (h : s.Inv)
    (hu : u = { s with
      pcnt := u.pcnt, perrcnt := u.perrcnt, outcome := u.outcome, inputs := u.inputs
      results := u.results, freeCount := u.freeCount })
    (hpcnt : u.pcnt.toNat ≤ 10)
    (hout : u.outcome = 0 ∨ ∃ k : ErrKind, k ≠ .interfaceError ∧ u.outcome = k.code) : u.Inv := by
  rw [hu]
  exact { h with pcntRange := hpcnt, outcomeKnown := hout }

/-- Ending an operation with an error the block raises keeps the invariant. -/
theorem State.Inv.raiseError {s : State} (h : s.Inv) (op : BitVec 4) {k : ErrKind}
    (hk : k ≠ .interfaceError) : (s.raiseError op k).Inv :=
  h.of_frame rfl h.pcntRange (.inr ⟨k, hk, rfl⟩)

/-- A codec operation keeps the invariant. -/
theorem State.Inv.codecEffect {s u : State} (h : s.Inv) (he : CodecEffect s u) : u.Inv := by
  have hpcnt : u.pcnt.toNat ≤ 10 := by
    rcases he.pcnt with e | ⟨d, e⟩ <;> rw [e]
    · exact h.pcntRange
    · exact pcntOf_le d
  refine h.of_frame ?_ hpcnt (outcome_known_of_codec he.outcome)
  have hin : u.inputs = s.inputs := by rw [he.frame]
  have hfree : u.freeCount = s.freeCount := by rw [he.frame]
  rw [hin, hfree]
  exact he.frame

/-- The block right after reset meets the invariant (R240). -/
theorem State.inv_resetWith {p : Params} (hp : p.valid = true) : (State.resetWith p).Inv where
  parameters := hp
  pcntRange := Nat.zero_le _
  txBuffer := ⟨rfl, fun _ he => absurd he List.not_mem_nil⟩
  rxBuffer := ⟨rfl, Nat.zero_le _, fun _ he => absurd he List.not_mem_nil⟩
  rxCount := ⟨Nat.zero_le _, fun _ => Nat.zero_le _⟩
  txPosition := TxUnit.positionOk_of_idle rfl
  unitsOff := fun _ => ⟨rfl, rfl, rfl⟩
  armedFits := fun h => by cases h
  armedClear := fun h => by cases h
  timerBound := fun h => by cases h
  heldBusy := fun h => absurd rfl h
  heldOk := fun _ hr => absurd hr List.not_mem_nil
  transferIdle := fun h => by cases h
  ackBound := fun h => by rcases h with h | h <;> cases h
  outcomeKnown := .inl rfl
  capturedLegal := resultLegal_nil p

/-- `rst` leads to a state that meets the invariant (R240, R241). -/
theorem State.Inv.rst {s : State} (h : s.Inv) : s.rst.Inv :=
  (State.inv_resetWith h.parameters).of_frame rfl (Nat.zero_le _) (.inl rfl)

/-! ### Arming -/

/-- Arming an idle block keeps the invariant; the requests still held, which an idle block may have only at this
moment, are those that wait for the transaction armed (R153, R164). -/
theorem State.Inv.arm {s : State} {r : TransactReq} (h : ({ s with held := [] } : State).Inv)
    (hidle : s.tst = .idle) (hheld : ∀ q ∈ s.held, requestOk s.par q = true)
    (hr : requestOk s.par r = true) : (s.arm r).Inv := by
  obtain ⟨-, hne, hfit, -⟩ := (requestOk_iff _ _).1 hr
  obtain ⟨htx, hrx, hline⟩ := h.unitsOff (by simp [hidle])
  obtain ⟨hwf, hrange⟩ := h.txBuffer
  have hcnt : (s.arm r).tx.txcnt.toNat < s.par.txCapacity := by
    simp only [State.arm_tx, BitVec.toNat_ofNat]
    omega
  exact { h with
    pcntRange := by
      have := (Config.freePcnt s.freeCount).isLt
      simp only [State.arm_pcnt, BitVec.toNat_ofNat]
      omega
    txBuffer := by
      refine ⟨Memory.wf_writeList _ _ _ hwf, fun e he => ?_⟩
      rcases Memory.mem_writeList _ _ _ _ he with he | ⟨-, he⟩
      · exact hrange e he
      · rw [List.length_map, length_wordsOfBytes, Nat.zero_add] at he
        exact Nat.lt_of_lt_of_le he hfit
    rxBuffer := ⟨rfl, Nat.zero_le _, fun _ he => absurd he List.not_mem_nil⟩
    rxCount := h.rxCount
    txPosition := TxUnit.positionOk_of_idle htx
    unitsOff := fun _ => ⟨htx, hrx, hline⟩
    armedFits := fun _ => hcnt
    armedClear := fun _ => ⟨rfl, rfl⟩
    timerBound := fun hf => by cases hf
    heldBusy := fun _ => ⟨by simp, by simp⟩
    heldOk := hheld
    transferIdle := fun hx => by
      have := h.transferIdle hx
      simp [hidle] at this
    ackBound := fun hf => by rcases hf with hf | hf <;> cases hf }

/-- An idle block holds no request (R164, log entry 11). -/
theorem State.Inv.held_eq_nil {s : State} (h : s.Inv) (hidle : s.tst = .idle) : s.held = [] := by
  by_contra hne
  exact (h.heldBusy hne).1 hidle

/-- With nothing held, the state without its held requests is the state. -/
theorem State.with_held_nil {s : State} (h : s.held = []) : ({ s with held := [] } : State) = s := by
  rw [← h]

/-- Serving the oldest held request of a block that has just become idle gives a state that meets the invariant
(R164). -/
theorem State.Inv.serveHeld {s u : State} (h : ({ s with held := [] } : State).Inv)
    (hidle : s.tst = .idle) (hheld : ∀ q ∈ s.held, requestOk s.par q = true)
    (hu : serveHeld s = .next u) : u.Inv := by
  rcases serveHeld_cases s with ⟨hnil, e⟩ | ⟨r, rest, hcons, e⟩ <;> rw [e] at hu
  · cases hu
    exact State.with_held_nil hnil ▸ h
  · obtain ⟨-, rfl⟩ := armRequest_next hu
    rw [hcons] at hheld
    exact State.Inv.arm (s := { s with held := rest }) h hidle
      (fun q hq => hheld q (List.mem_cons_of_mem _ hq)) (hheld r List.mem_cons_self)

/-- `TRANSACT` as it is issued keeps the invariant (R152, R153, R162, R164). -/
theorem State.Inv.execTransact {s u : State} {b : List Byte} {t : Timeout} (h : s.Inv)
    (hu : execTransact b t s = .next u) : u.Inv := by
  rcases execTransact_cases b t s with ⟨-, e⟩ | ⟨hr, ⟨-, e⟩ | ⟨hidle, e⟩ | ⟨hni, hnh, e⟩⟩ <;>
    cases e.symm.trans hu
  · exact h.raiseError _ (by simp)
  · exact h.raiseError _ (by simp)
  · exact State.Inv.arm (by rwa [State.with_held_nil (h.held_eq_nil hidle)]) hidle h.heldOk hr
  · exact { h with
      heldBusy := fun _ => ⟨hni, hnh⟩
      heldOk := fun q hq => by
        rcases List.mem_append.1 hq with hq | hq
        · exact h.heldOk q hq
        · exact List.mem_singleton.1 hq ▸ hr }

/-! ### Teardown -/

/-- The block as it returns to `Idle` meets the invariant but for the requests still held (R163). -/
theorem State.Inv.giveBack {s : State} (h : s.Inv) (hs : s.tst = .completed ∨ s.tst = .timedOut) :
    ({ s.giveBack with held := [] } : State).Inv := by
  have hoff := h.unitsOff (by rcases hs with hs | hs <;> simp [hs])
  rw [State.giveBack_eq]
  exact { h with
    unitsOff := fun _ => hoff
    armedFits := fun hf => by cases hf
    armedClear := fun hf => by cases hf
    timerBound := fun hf => by cases hf
    heldBusy := fun hf => absurd rfl hf
    heldOk := fun _ hr => absurd hr List.not_mem_nil
    transferIdle := fun hf => by cases hf
    ackBound := fun hf => by rcases hf with hf | hf <;> cases hf
    outcomeKnown := by
      by_cases hc : s.tst = .completed
      · exact .inl (if_pos hc)
      · exact .inr ⟨.receiveTimeout, by simp, if_neg hc⟩
    capturedLegal := resultLegal_nil _ }

/-- The fatal fault leads to a state that meets the invariant (R162). -/
theorem State.Inv.goFatal {s : State} (h : s.Inv) (hs : s.tst = .completed ∨ s.tst = .timedOut) :
    s.goFatal.Inv := by
  have hoff := h.unitsOff (by rcases hs with hs | hs <;> simp [hs])
  exact { h with
    unitsOff := fun _ => hoff
    armedFits := fun hf => by cases hf
    armedClear := fun hf => by cases hf
    timerBound := fun hf => by cases hf
    heldBusy := fun hf => absurd rfl hf
    heldOk := fun _ hr => absurd hr List.not_mem_nil
    transferIdle := fun _ => .inr (.inr rfl)
    ackBound := fun hf => by rcases hf with hf | hf <;> cases hf
    outcomeKnown := .inr ⟨.fatal, by simp, rfl⟩
    capturedLegal := resultLegal_nil _ }

/-- A withheld acknowledge leaves `XFER_BUSY` free in teardown (R20, log entry 7). -/
theorem State.Inv.ackWithheld {s : State} (h : s.Inv)
    (hs : s.tst = .completed ∨ s.tst = .timedOut) : s.ackWithheld.Inv :=
  { h with transferIdle := fun _ => hs.imp_right .inl }

/-- A tick of teardown keeps the invariant (R161 to R163). -/
theorem State.Inv.teardownTick {s u : State} {a : Bool} (h : s.Inv)
    (hs : s.tst = .completed ∨ s.tst = .timedOut) (hu : teardownTick a s = .next u) : u.Inv := by
  rcases teardownTick_cases a s with ⟨-, e⟩ | ⟨-, hlt, e⟩ | ⟨-, -, e⟩ <;> rw [e] at hu
  · refine State.Inv.serveHeld (h.giveBack hs) ?_ ?_ hu <;> rw [State.giveBack_eq]
    exact h.heldOk
  · cases hu
    exact { h.ackWithheld hs with ackBound := fun _ => hlt }
  · cases hu
    exact (h.ackWithheld hs).goFatal hs

/-! ### In flight -/

/-- Starting both units of an armed block keeps the invariant (R154). -/
theorem State.Inv.start {s : State} (h : s.Inv) (hs : s.tst = .armed) : s.start.Inv :=
  { h with
    rxCount := ⟨Nat.zero_le _, fun _ => Nat.zero_le _⟩
    txPosition := ⟨Nat.zero_le _, rfl, h.armedFits hs⟩
    unitsOff := fun hf => absurd rfl hf
    armedFits := fun hf => by cases hf
    armedClear := fun hf => by cases hf
    timerBound := fun _ => Nat.zero_le _
    heldBusy := fun _ => ⟨by simp, by simp⟩
    transferIdle := fun hx => by
      have := h.transferIdle hx
      simp [hs] at this
    ackBound := fun hf => by rcases hf with hf | hf <;> cases hf }

/-- An exit poll that captures a legal result keeps the invariant (R156, R157, R161). -/
theorem State.Inv.exitPoll {s : State} {x : TState} {b : List Byte} (h : s.Inv)
    (hs : s.tst = .inFlight) (hx : x = .completed ∨ x = .timedOut) (hb : resultLegal s.par b) :
    (s.exitPoll x b).Inv :=
  { h with
    rxCount := RxUnit.halt_countOk h.rxCount
    txPosition := TxUnit.positionOk_of_idle rfl
    unitsOff := fun _ => ⟨rfl, rfl, rfl⟩
    armedFits := fun hf => by rcases hx with rfl | rfl <;> cases hf
    armedClear := fun hf => by rcases hx with rfl | rfl <;> cases hf
    timerBound := fun hf => by rcases hx with rfl | rfl <;> cases hf
    heldBusy := fun _ => by rcases hx with rfl | rfl <;> simp
    transferIdle := fun hf => by
      have := h.transferIdle hf
      simp [hs] at this
    ackBound := fun _ => Nat.zero_le _
    capturedLegal := hb }

/-- The poll at the last poll tick or later does not stay, so a tick that goes on in `InFlight` has a later poll
ahead of it (R156). -/
theorem State.timer_lt_lastPoll {s : State} (h : s.Inv) (hs : s.tst = .inFlight)
    (hstay : s.timer % s.par.pollTicks = 0 → s.poll = .stay) :
    s.timer < lastPoll s.par s.timeout := by
  obtain ⟨hmul, hdeadline, -⟩ :=
    lastPoll_bounds s.par s.timeout (Config.Params.valid_pollTicks _ h.parameters)
  have hle := h.timerBound hs
  by_cases hpoll : s.timer % s.par.pollTicks = 0
  · have hlt : s.timer < s.timeout := by
      rcases s.poll_cases with ⟨j, e, -⟩ | ⟨-, ⟨-, e⟩ | ⟨hlt, -⟩⟩
      · exact absurd (e.symm.trans (hstay hpoll)) (by simp)
      · exact absurd (e.symm.trans (hstay hpoll)) (by simp)
      · exact hlt
    omega
  · have hne : s.timer ≠ lastPoll s.par s.timeout := fun e => hpoll (e ▸ hmul)
    omega

/-- The line in a tick of `InFlight` keeps the invariant while a later poll is ahead (R155, R156). -/
theorem State.Inv.lineTick {s u : State} {c : Chip} (h : s.Inv) (hs : s.tst = .inFlight)
    (htimer : s.timer < lastPoll s.par s.timeout) (hu : lineTick c s = .next u) : u.Inv := by
  obtain ⟨t, ht, rfl⟩ := lineTick_next hu
  obtain ⟨hbuf, hcnt⟩ := TxUnit.tick_frame _ _ _ ht
  obtain ⟨t', ht', hpos⟩ := TxUnit.tick_ok s.par s.tx h.parameters h.txPosition
  cases ht.symm.trans ht'
  exact { h with
    txBuffer := by
      simp only [TxUnit.bufferOk, State.countMismatch_tx, hbuf]
      exact h.txBuffer
    rxBuffer := RxUnit.tick_keeps_bufferOk s.par c s.rx h.rxBuffer
    rxCount := RxUnit.tick_keeps_countOk s.par.rxSlots c s.rx h.rxCount
    txPosition := hpos
    unitsOff := fun hf => absurd hs hf
    armedFits := fun hf => by cases hs.symm.trans hf
    armedClear := fun hf => by cases hs.symm.trans hf
    timerBound := fun _ => htimer }

/-- A tick in `InFlight` keeps the invariant (R155). -/
theorem State.Inv.inFlightTick {s u : State} {c : Chip} {a : Bool} (h : s.Inv)
    (hs : s.tst = .inFlight) (hu : inFlightTick c a s = .next u) : u.Inv := by
  rcases inFlightTick_cases c a s with ⟨e, hstay⟩ | ⟨-, j, hj, e⟩ | ⟨-, -, e⟩ <;> rw [e] at hu
  · exact h.lineTick hs (State.timer_lt_lastPoll h hs hstay) hu
  · have hlegal : resultLegal s.par (s.resultBytes j) := by
      rcases s.poll_cases with ⟨k, ek, hk, -, hfirst⟩ | ⟨-, ⟨-, ek⟩ | ⟨-, ek⟩⟩ <;>
        cases hj.symm.trans ek
      exact State.resultBytes_legal h.rxBuffer hk hfirst
    exact (h.exitPoll hs (.inl rfl) hlegal).teardownTick (.inl rfl) hu
  · exact (h.exitPoll hs (.inr rfl) (resultLegal_nil _)).teardownTick (.inr rfl) hu

/-- A tick with no transaction in flight only holds the line at 0, where it was (R113, R213). -/
theorem State.Inv.quietTick {s : State} (h : s.Inv) (hs : s.tst ≠ .inFlight) : s.quietTick.Inv := by
  obtain ⟨htx, hrx, -⟩ := h.unitsOff hs
  exact { h with
    txPosition := TxUnit.positionOk_of_idle htx
    unitsOff := fun _ => ⟨htx, hrx, rfl⟩ }

/-- A tick keeps the invariant (R47). -/
theorem State.Inv.tick {s u : State} {c : Chip} {a : Bool} (h : s.Inv)
    (hu : tick c a s = .next u) : u.Inv := by
  rcases tick_cases c a s with ⟨hs, e⟩ | ⟨hs, e⟩ | ⟨hs, e⟩ | ⟨hs, e⟩ <;> rw [e] at hu
  · cases hu
    exact h.quietTick (by rcases hs with hs | hs <;> simp [hs])
  · exact (h.start hs).inFlightTick rfl hu
  · exact h.inFlightTick hs hu
  · exact (h.quietTick (by rcases hs with hs | hs <;> simp [hs])).teardownTick hs hu

end Sys2Proof.Machine
end

section
/-!
PROOFS. The statements on the state, the step and the registers.
-/

namespace Sys2Proof.Machine

/-- Settles O55: what each input does keeps the invariant, and taking the input from the list does not touch it. -/
theorem stepKeepsInvariant : Obligations.StepKeepsInvariant := by
  intro s u h hstep
  obtain ⟨w, hw, hcase⟩ := step_cases hstep
  have hwInv : w.Inv := by
    rw [hw]
    exact h.of_frame rfl h.pcntRange h.outcomeKnown
  rcases hcase with ⟨c, a, hu⟩ | ⟨i, hu⟩ | ⟨op, rfl⟩ | ⟨r, rfl⟩ | rfl | ⟨-, rfl⟩
  · exact hwInv.tick hu
  · rcases exec_cases hu with ⟨b, t, hu⟩ | he
    · exact hwInv.execTransact hu
    · exact hwInv.codecEffect he
  · exact hwInv.raiseError op (by simp)
  · exact hwInv.of_frame rfl hwInv.pcntRange hwInv.outcomeKnown
  · exact hwInv
  · exact hwInv.rst

/-- Settles O38, from the effect every codec operation has. -/
theorem codecOperationsLeaveEngineAlone : Obligations.CodecOperationsLeaveEngineAlone := by
  intro i s hi
  obtain ⟨u, hu, he⟩ := exec_codecEffect s hi
  exact ⟨u, hu, he.frame, he.outcome, he.response⟩

/-- Settles O51: `PERRCNT` stays or takes one saturating increment. -/
theorem mismatchCounterOnlyGrows : Obligations.MismatchCounterOnlyGrows := by
  intro s u h hr
  rcases step_perrcnt h hr with e | e <;> rw [e]
  · omega
  · exact saturatingInc_bounds s.perrcnt

/-- Settles O1: the step takes the request, and the request runs what it decodes to. -/
theorem stepRunsDecodedRequest : Obligations.StepRunsDecodedRequest := by
  intro s r rest i hp hin hd _
  exact (step_cons hp hin).trans (acceptRequest_instr _ hd)

/-- Settles O2: the step applies the input listed first, and ticks when none is listed. -/
theorem stepTakesOtherInputs : Obligations.StepTakesOtherInputs := by
  intro s hp
  exact ⟨fun _ _ _ hin => step_cons hp hin, fun _ _ hin => step_cons hp hin,
    fun _ _ _ hin => step_cons hp hin, step_nil hp⟩

/-- The low three bits of `STATUS` are the code of `TST` (R22). -/
theorem State.status_mod_eight (s : State) : s.status.toNat % 8 = s.tst.code.toNat := by
  have := s.tst.code.isLt
  rw [State.status, BitVec.toNat_append, Nat.shiftLeft_eq, Nat.mul_comm,
    ← Nat.two_pow_add_eq_or_of_lt this]
  omega

/-- Bit `i` of `STATUS`: the code of `TST` below bit 3, then the six flags, then 0 (R22). -/
theorem State.status_getLsbD (s : State) (i : Nat) :
    s.status.getLsbD i =
      if i < 3 then s.tst.code.getLsbD i
      else [s.txActive, s.rxActive, s.tx.txDone, s.rxStall, s.perr, s.xferBusy].getD (i - 3) false := by
  rw [State.status]
  repeat rw [BitVec.getLsbD_append]
  by_cases h3 : i < 3
  · simp [h3]
  · obtain ⟨j, rfl⟩ : ∃ j, i = j + 3 := ⟨i - 3, by omega⟩
    match j with
    | 0 | 1 | 2 | 3 | 4 | 5 => simp
    | j + 6 => simp

/-- Settles O49: each bit of `STATUS` is read from the field that holds it. -/
theorem statusLayout : Obligations.StatusLayout := by
  intro s
  refine ⟨?_, ?_, ?_, ?_, ?_, ?_, ?_, fun i hi => ?_, fun v => rfl⟩
  · rw [State.status_mod_eight]
    cases s.tst <;> rfl
  · rw [State.status_getLsbD]
    simp [State.txActive, bne, beq_eq_decide]
  · rw [State.status_getLsbD]
    simp [State.rxActive, bne, beq_eq_decide]
  · exact s.status_getLsbD _
  · rw [State.status_getLsbD]
    simp [State.rxStall, beq_eq_decide]
  · rw [State.status_getLsbD]
    simp [State.perr, bne, beq_eq_decide]
  · exact s.status_getLsbD _
  · obtain ⟨j, rfl⟩ : ∃ j, i = j + 9 := ⟨i - 9, by omega⟩
    rw [State.status_getLsbD]
    simp

end Sys2Proof.Machine
end

section
/-!
PROOFS. Progress: under the invariant each tick, operation and step has a next state (R40, R206).
-/

namespace Sys2Proof.Machine

/-- Serving completes when the held requests have passed their checks, for the one armed then fits `TXBUF`
(R152, R164). -/
theorem serveHeld_completes {s : State} (hok : ∀ r ∈ s.held, requestOk s.par r = true) :
    ∃ u, serveHeld s = .next u := by
  rcases serveHeld_cases s with ⟨-, e⟩ | ⟨r, rest, hcons, e⟩
  · exact ⟨s, e⟩
  · obtain ⟨-, -, hfit, -⟩ := (requestOk_iff _ _).1 (hok r (hcons ▸ List.mem_cons_self))
    exact ⟨_, e.trans (armRequest_ok _ _ hfit)⟩

/-- A tick of teardown completes when the held requests have passed their checks (R161 to R164). -/
theorem teardownTick_completes (a : Bool) {s : State}
    (hok : ∀ r ∈ s.held, requestOk s.par r = true) : ∃ u, teardownTick a s = .next u := by
  rcases teardownTick_cases a s with ⟨-, e⟩ | ⟨-, -, e⟩ | ⟨-, -, e⟩ <;> rw [e]
  · apply serveHeld_completes
    rw [State.giveBack_eq]
    exact hok
  · exact ⟨_, rfl⟩
  · exact ⟨_, rfl⟩

/-- The line's part of a tick completes, for the transmitter is inside the segment it drives (R13, R155). -/
theorem State.Inv.lineTick_completes {s : State} (h : s.Inv) (c : Chip) :
    ∃ u, Machine.lineTick c s = .next u := by
  obtain ⟨t, ht, -⟩ := TxUnit.tick_ok s.par s.tx h.parameters h.txPosition
  exact ⟨_, lineTick_ok c s t ht⟩

/-- A tick of `InFlight` completes, whatever its poll finds (R155, R156). -/
theorem State.Inv.inFlightTick_completes {s : State} (h : s.Inv) (c : Chip) (a : Bool) :
    ∃ u, Machine.inFlightTick c a s = .next u := by
  rcases inFlightTick_cases c a s with ⟨e, -⟩ | ⟨-, j, -, e⟩ | ⟨-, -, e⟩ <;> rw [e]
  · exact h.lineTick_completes c
  · exact teardownTick_completes a (s := s.exitPoll .completed (s.resultBytes j)) h.heldOk
  · exact teardownTick_completes a (s := s.exitPoll .timedOut []) h.heldOk

/-- Every tick completes (R40, R47). -/
theorem State.Inv.tick_completes {s : State} (h : s.Inv) (c : Chip) (a : Bool) :
    ∃ u, Machine.tick c a s = .next u := by
  rcases tick_cases c a s with ⟨-, e⟩ | ⟨hs, e⟩ | ⟨-, e⟩ | ⟨-, e⟩ <;> rw [e]
  · exact ⟨_, rfl⟩
  · exact (h.start hs).inFlightTick_completes c a
  · exact h.inFlightTick_completes c a
  · exact teardownTick_completes a (s := s.quietTick) h.heldOk

/-- `TRANSACT` as it is issued completes in every state: what it arms has passed the check against `TX_CAPACITY`
(R152, R206). -/
theorem execTransact_completes (b : List Byte) (t : Timeout) (s : State) :
    ∃ u, execTransact b t s = .next u := by
  rcases execTransact_cases b t s with ⟨-, e⟩ | ⟨-, ⟨-, e⟩ | ⟨-, e⟩ | ⟨-, -, e⟩⟩ <;> exact ⟨_, e⟩

/-- Every operation completes in every state (R206). -/
theorem exec_completes (i : Instr) (s : State) : ∃ u, exec i s = .next u := by
  cases hi : isCodecOperation i with
  | true =>
    obtain ⟨u, hu, -⟩ := exec_codecEffect s hi
    exact ⟨u, hu⟩
  | false =>
    cases i with
    | transact b t => exact execTransact_completes b t s
    | _ => cases hi

/-- Every input completes: only a tick needs the invariant for it (R30, R40, R81). -/
theorem State.Inv.applyInput_completes {s : State} (h : s.Inv) (x : Input) :
    ∃ u, applyInput x s = .next u := by
  cases x with
  | tick c a => exact h.tick_completes c a
  | request r =>
    rcases acceptRequest_cases r s with ⟨i, -, e⟩ | ⟨op, -, e⟩
    · obtain ⟨u, hu⟩ := exec_completes i s
      exact ⟨u, e.trans hu⟩
    · exact ⟨_, e⟩
  | readReg n => exact ⟨_, rfl⟩
  | writeReg n v => exact ⟨_, rfl⟩
  | rst => exact ⟨_, rfl⟩

/-- Every step completes: the build is valid, and taking the input from the list does not touch the invariant. -/
theorem State.Inv.step_completes {s : State} (h : s.Inv) : ∃ u, step s = .next u := by
  rcases hin : s.inputs with _ | ⟨x, rest⟩
  · have hnil : ({ s with freeCount := s.freeCount + 1 } : State).Inv :=
      h.of_frame rfl h.pcntRange h.outcomeKnown
    rw [step_nil h.parameters hin]
    exact hnil.tick_completes _ _
  · have hrest : ({ s with inputs := rest } : State).Inv :=
      h.of_frame rfl h.pcntRange h.outcomeKnown
    rw [step_cons h.parameters hin]
    exact hrest.applyInput_completes x

/-- Settles O56: under the invariant the step answers a next state, which is no stop. -/
theorem noStepStops : Obligations.NoStepStops := by
  intro s h
  obtain ⟨u, hu⟩ := h.step_completes
  rw [hu]
  exact not_false

end Sys2Proof.Machine
end

section
/-!
PROOFS. The receive buffer: what one chip stores, and the two searches for the terminator (R43, R49).
-/

namespace Sys2Proof.Machine

/-- Settles O23: a tick stores nothing, or writes the one slot at `RXWP`, and a write leaves the others alone. -/
theorem storesGoUpward : Obligations.StoresGoUpward := by
  intro slots c rx
  rcases RxUnit.tick_buffer slots c rx with ⟨hbuf, hwp, -⟩ | ⟨hlt, v, -, hbuf, hwp⟩
  · exact .inl ⟨hwp, hbuf⟩
  · refine .inr ⟨hlt, hwp, fun j hj => ?_⟩
    rw [hbuf]
    exact Memory.read_write_other _ _ _ _ hj

/-- The slot-wise search finds the first terminator among the values read from the slots (R156). -/
theorem Memory.findTerminator_eq_idxOf? (m : SlotMem 16) (i n : Nat) :
    Memory.findTerminator m i n = ((Memory.readList m i n).idxOf? terminator).map (i + ·) := by
  induction n generalizing i with
  | zero => rfl
  | succ n ih =>
    rw [Memory.findTerminator, Memory.readList, List.idxOf?_cons]
    by_cases h : Memory.read m i = terminator
    · simp [h]
    · have hshift : (i + ·) ∘ (· + 1) = (i + 1 + ·) := by
        funext k
        simp only [Function.comp]
        omega
      simp [h, ih, hshift]

/-- The byte-wise search steps over a byte that is not 0xFF. -/
theorem byteSearch_cons_of_ne {b : Byte} (l : List Byte) (h : b ≠ 0xFF#8) :
    byteSearch (b :: l) = (byteSearch l).map (· + 1) := by
  cases l with
  | nil => rfl
  | cons b' l => simp [byteSearch, h]

/-- The byte-wise search steps over a byte that the next one, not 0xFF, follows. -/
theorem byteSearch_cons_cons_of_ne (b : Byte) {b' : Byte} (l : List Byte) (h : b' ≠ 0xFF#8) :
    byteSearch (b :: b' :: l) = (byteSearch (b' :: l)).map (· + 1) := by
  simp [byteSearch, h]

/-- A payload's high byte is at most 3, so it is not 0xFF (R43, R66). -/
theorem highByte_ne_of_le {w : Word} (h : w.toNat ≤ 0x3FF) : w.extractLsb' 8 8 ≠ 0xFF#8 := by
  intro e
  have hbyte := toNat_highByte w
  rw [e, BitVec.toNat_ofNat] at hbyte
  omega

/-- Over terminators and payloads the byte-wise search finds the low byte of the first terminator: the high byte
of each payload before it keeps two bytes 0xFF from meeting across words (R43). -/
theorem byteSearch_tbytes (ws : List Word) (hws : ∀ w ∈ ws, w = terminator ∨ w.toNat ≤ 0x3FF) :
    byteSearch (tbytes ws) = (ws.idxOf? terminator).map (2 * ·) := by
  induction ws with
  | nil => rfl
  | cons w ws ih =>
    obtain ⟨hw, hrest⟩ := List.forall_mem_cons.1 hws
    rw [tbytes_cons, List.idxOf?_cons]
    rcases hw with rfl | hle
    · rfl
    · have hhigh := highByte_ne_of_le hle
      have hne : w ≠ terminator := by
        rintro rfl
        exact absurd hle (by decide)
      have hshift : (· + 1) ∘ (· + 1) ∘ (2 * ·) = (2 * ·) ∘ (· + 1) := by
        funext k
        simp only [Function.comp]
        omega
      rw [byteSearch_cons_cons_of_ne _ _ hhigh, byteSearch_cons_of_ne _ hhigh, ih hrest]
      simp [hne, hshift]

/-- Settles O24: both searches are the search for the first terminator among the values read. -/
theorem byteAndSlotSearchAgree : Obligations.ByteAndSlotSearchAgree := by
  intro p rx hbuf
  have hlegal : ∀ w ∈ Memory.readList rx.rxbuf 0 p.rxSlots, w = terminator ∨ w.toNat ≤ 0x3FF := by
    intro w hw
    obtain ⟨k, -, rfl⟩ := Memory.mem_readList hw
    exact hbuf.read_legal _
  rw [byteSearch_tbytes _ hlegal, Memory.findTerminator_eq_idxOf?]
  simp

end Sys2Proof.Machine
end

section
/-!
PROOFS. The operation map (R80, R81): what `decode` makes of a request, and what `encode` gives back.
-/

namespace Sys2Proof

/-- Decoding the request of an operation gives the operation, with all its operands (R80). -/
@[simp] theorem decode_encode (i : Instr) : decode (encode i) = .instr i := by
  cases i <;> rfl

/-- The form of its request holds of every operation. -/
theorem encodingForm (i : Instr) : Laws.EncodingForm.Statement i :=
  match i with
  | .parity v => Laws.EncodingForm.parity v
  | .wenc v => Laws.EncodingForm.wenc v
  | .wdec c => Laws.EncodingForm.wdec c
  | .ftx w => Laws.EncodingForm.ftx w
  | .frx l => Laws.EncodingForm.frx l
  | .transact b t => Laws.EncodingForm.transact b t
  | .texp w d => Laws.EncodingForm.texp w d
  | .tenc w d => Laws.EncodingForm.tenc w d
  | .tdec b => Laws.EncodingForm.tdec b
  | .tcmp w => Laws.EncodingForm.tcmp w

/-- Operands are typed, so every operation is well formed. -/
@[simp] theorem Instr.wellFormed_eq_true (i : Instr) : i.wellFormed = true :=
  (encodingForm i).2.2

/-- The codes of the operation map, listed (R80). -/
theorem opDefined_cases {op : BitVec 4} (h : opDefined op = true) :
    op = 1#4 ∨ op = 2#4 ∨ op = 3#4 ∨ op = 4#4 ∨ op = 5#4 ∨ op = 6#4 ∨ op = 7#4 ∨ op = 8#4 ∨
      op = 9#4 ∨ op = 10#4 := by
  decide +revert

/-- The reserved codes are those the operation map leaves out (R81). -/
theorem opDefined_eq_false_iff (op : BitVec 4) :
    opDefined op = false ↔ op = 0x0#4 ∨ 0xB ≤ op.toNat := by
  decide +revert

/-- A reserved code is rejected whatever the operands are (R81). -/
theorem decode_reserved {r : OpReq} (h : opDefined r.op = false) :
    decode r = .rejected (.reservedOp r.op) := by
  have hout : ¬(1 ≤ r.op.toNat ∧ r.op.toNat ≤ 10) := by
    simpa [opDefined] using h
  unfold decode
  split
  case h_11 => rfl
  all_goals omega

/-- A request in the form `encode` writes is the request of the operation it decodes to: the lanes this operation
reads are its operands, and the form makes the others what `encode` leaves there (R80, log entry 2). -/
theorem OpReq.decode_of_wellFormed {r : OpReq} (h : r.wellFormed = true) :
    ∃ i, decode r = .instr i ∧ encode i = r := by
  have hop : opDefined r.op = true := by
    simp only [OpReq.wellFormed, Bool.and_eq_true] at h
    tauto
  obtain ⟨op, word, container, words, chips, bytes, timeout, desc⟩ := r
  rcases opDefined_cases hop with rfl | rfl | rfl | rfl | rfl | rfl | rfl | rfl | rfl | rfl
  · exact ⟨.parity word, rfl, by simp_all [OpReq.wellFormed, encode, OpReq.bare]⟩
  · exact ⟨.wenc word, rfl, by simp_all [OpReq.wellFormed, encode, OpReq.bare]⟩
  · exact ⟨.wdec container, rfl, by simp_all [OpReq.wellFormed, encode, OpReq.bare]⟩
  · exact ⟨.ftx words, rfl, by simp_all [OpReq.wellFormed, encode, OpReq.bare]⟩
  · exact ⟨.frx chips, rfl, by simp_all [OpReq.wellFormed, encode, OpReq.bare]⟩
  · exact ⟨.transact bytes timeout, rfl, by simp_all [OpReq.wellFormed, encode, OpReq.bare]⟩
  · exact ⟨.texp words desc, rfl, by simp_all [OpReq.wellFormed, encode, OpReq.bare]⟩
  · exact ⟨.tenc words desc, rfl, by simp_all [OpReq.wellFormed, encode, OpReq.bare]⟩
  · exact ⟨.tdec bytes, rfl, by simp_all [OpReq.wellFormed, encode, OpReq.bare]⟩
  · exact ⟨.tcmp words, rfl, by simp_all [OpReq.wellFormed, encode, OpReq.bare]⟩

/-- A table word that is the request of an operation selects it. -/
theorem decodeTableWord_of_encode {nbits w : Nat} {i : Instr}
    (h : OpReq.ofTableWord nbits w = encode i) : decodeTableWord nbits w = some i := by
  simp [decodeTableWord, h]

/-- A table word with a reserved code selects nothing (R81). -/
theorem decodeTableWord_reserved {nbits w : Nat} (h : opDefined (BitVec.ofNat 4 w) = false) :
    decodeTableWord nbits w = none := by
  simp [decodeTableWord, decode_reserved (r := OpReq.ofTableWord nbits w) h]

/-- Settles O4: one direction is `decode_encode`, the other reads the form of the request code by code. -/
theorem decodeEncodeAgree : Obligations.DecodeEncodeAgree := by
  refine ⟨fun i _ => decode_encode i, fun r h => ?_⟩
  obtain ⟨i, hd, he⟩ := OpReq.decode_of_wellFormed h
  exact ⟨i, hd, he, i.wellFormed_eq_true⟩

/-- Settles O5: each of the ten words is an operation's request, and the other six codes are reserved. -/
theorem tableCodesDecode : Obligations.TableCodesDecode :=
  ⟨decodeTableWord_of_encode rfl, decodeTableWord_of_encode rfl, decodeTableWord_of_encode rfl,
    decodeTableWord_of_encode rfl, decodeTableWord_of_encode rfl, decodeTableWord_of_encode rfl,
    decodeTableWord_of_encode rfl, decodeTableWord_of_encode rfl, decodeTableWord_of_encode rfl,
    decodeTableWord_of_encode rfl, decodeTableWord_reserved rfl, decodeTableWord_reserved rfl,
    decodeTableWord_reserved rfl, decodeTableWord_reserved rfl, decodeTableWord_reserved rfl,
    decodeTableWord_reserved rfl⟩

end Sys2Proof

namespace Sys2Proof.Machine

/-- A request with a reserved code ends with `InvalidInput` (R81). -/
theorem acceptRequest_reserved {r : OpReq} (s : State) (h : opDefined r.op = false) :
    acceptRequest r s = .next (s.raiseError r.op .invalidInput) := by
  simp only [acceptRequest, decode_reserved h]

/-- Settles O3: the step takes the request, and a reserved code ends it before any operand is looked at. -/
theorem reservedCodeEndsInvalidInput : Obligations.ReservedCodeEndsInvalidInput := by
  intro s r rest hp hin hr
  exact (step_cons hp hin).trans
    (acceptRequest_reserved { s with inputs := rest } ((opDefined_eq_false_iff r.op).2 hr))

end Sys2Proof.Machine
end

section
/-!
PROOFS. The bits of an encoded word (R61, R92), and `PCNT` and the parity as a count of ones (R10, R90).
-/

namespace Sys2Proof.Machine

/-! ### The payload and its count of ones -/

/-- The payload is bits 9 to 0 of the word (R65). -/
theorem getLsbD_payload (v : Word) {i : Nat} (hi : i < 10) :
    (payload v).getLsbD i = v.getLsbD i := by
  simp [payload, hi]

/-- The payload bits in the order they are sent are bits 0 to 9 reversed (R42). -/
theorem payloadBits_payload (v : Word) :
    payloadBits (payload v) = ((List.range 10).map v.getLsbD).reverse := by
  have hbits : payloadBits (payload v) = ((List.range 10).map (payload v).getLsbD).reverse := rfl
  rw [hbits, List.map_congr_left fun i hi => getLsbD_payload v (List.mem_range.1 hi)]

/-- A run of `PCNT` adds the number of ones to it, within its four bits (R10). -/
theorem countOnes_eq (l : List Bool) (n : BitVec 4) :
    countOnes l n = n + BitVec.ofNat 4 (l.count true) := by
  induction l generalizing n with
  | nil => simp [countOnes]
  | cons b l ih =>
    have hstep : countOnes (b :: l) n = countOnes l (if b then n + 1 else n) := rfl
    rw [hstep, ih]
    cases b
    · simp
    · simp only [if_true, List.count_cons_self, BitVec.ofNat_add]
      rw [BitVec.add_assoc, BitVec.add_comm 1]
      rfl

/-- `PCNT` after a payload is its number of ones (R90). -/
theorem pcntOf_payload (v : Word) : pcntOf (payload v) = BitVec.ofNat 4 (payloadOnes v) := by
  have hcount : (payloadBits (payload v)).count true = payloadOnes v := by
    rw [payloadBits_payload, List.count_reverse, List.count_eq_countP, List.countP_map,
      payloadOnes, ← List.countP_eq_length_filter]
    congr 1
    funext i
    simp
  rw [pcntOf, countOnes_eq, hcount]
  simp

/-- The parity bit makes the number of ones odd (R90). -/
theorem parityBit_payload (v : Word) :
    parityBit (payload v) = decide (payloadOnes v % 2 = 0) := by
  rw [parityBit, pcntOf_payload, BitVec.getLsbD_ofNat]
  rcases Nat.mod_two_eq_zero_or_one (payloadOnes v) with h | h <;> simp [Nat.testBit_zero, h]

/-! ### The chips of a word -/

/-- Pair `k` of a run of pairs holds bit `k`: its complement first, then the bit (R91). -/
theorem getElem?_flatMap_pair (l : List Bool) (k : Nat) :
    (l.flatMap pair)[2 * k]? = l[k]?.map (!·) ∧ (l.flatMap pair)[2 * k + 1]? = l[k]? := by
  induction l generalizing k with
  | nil => simp
  | cons b l ih =>
    cases k with
    | zero => simp [pair]
    | succ k => simpa [pair, Nat.mul_succ] using ih k

/-- The ten pairs stand behind the two chips of the start marker (R92). -/
theorem getElem?_wordPattern_body (d : Payload) {j k : Nat} (hj : j = k + 2) (hk : k < 20) :
    (wordPattern d)[j]? = ((payloadBits d).flatMap pair)[k]? := by
  have hlen : ((payloadBits d).flatMap pair).length = 20 := rfl
  have hmarker : wordPattern d =
      false :: true :: ((payloadBits d).flatMap pair ++ pair (parityBit d)) := rfl
  rw [hj, hmarker, List.getElem?_cons_succ, List.getElem?_cons_succ,
    List.getElem?_append_left (hlen ▸ hk)]

/-- Payload bit `i` has chips `20 - 2i` and `21 - 2i` of the word (R92). -/
theorem getElem?_wordPattern_pair (v : Word) {i : Nat} (hi : i < 10) :
    (wordPattern (payload v))[20 - 2 * i]? = some (!v.getLsbD i) ∧
      (wordPattern (payload v))[21 - 2 * i]? = some (v.getLsbD i) := by
  have hbit : (payloadBits (payload v))[9 - i]? = some (v.getLsbD i) := by
    rw [payloadBits_payload, List.getElem?_reverse (by simp; omega)]
    simp [show 10 - 1 - (9 - i) = i by omega, hi]
  obtain ⟨hfirst, hsecond⟩ := getElem?_flatMap_pair (payloadBits (payload v)) (9 - i)
  rw [hbit] at hfirst hsecond
  constructor
  · rw [getElem?_wordPattern_body _ (show 20 - 2 * i = 2 * (9 - i) + 2 by omega) (by omega), hfirst]
    rfl
  · rw [getElem?_wordPattern_body _ (show 21 - 2 * i = 2 * (9 - i) + 1 + 2 by omega) (by omega), hsecond]

/-- `left_pack` leaves the low eight bits 0 (R93). -/
theorem getLsbD_leftPack_padding (l : List Chip) {i : Nat} (hi : i < 8) :
    (leftPack l).getLsbD i = false := by
  have hshift : bitsToNat l * 256 = bitsToNat l <<< 8 := by rw [Nat.shiftLeft_eq]
  rw [leftPack, BitVec.getLsbD_ofNat, hshift, Nat.testBit_shiftLeft]
  simp [Nat.not_le.2 hi]

/-- Chip `j` of an encoded word is bit `31 - j` of its container (R61, R94). -/
theorem getLsbD_wencWord (v : Word) {j : Nat} {b : Bool}
    (h : (wordPattern (payload v))[j]? = some b) : (wencWord v).getLsbD (31 - j) = b := by
  have hchips : chips24 (wencWord v) = wordPattern (payload v) :=
    chips24_leftPack _ (length_wordPattern _)
  have hj : j < 24 := by
    simpa using (List.getElem?_eq_some_iff.1 h).1
  simpa [← hchips, chips24, hj] using h

/-- `WENC` answers the encoded word and leaves the payload's count of ones in `PCNT` (R92). -/
theorem exec_wenc (v : Word) (s : State) :
    exec (.wenc v) s = .next { s with
      pcnt := BitVec.ofNat 4 (payloadOnes v)
      outcome := 0
      results := s.results ++ [.ok 0x2#4 (.container (wencWord v))] } := by
  rw [← pcntOf_payload]
  rfl

/-- Settles O7: each bit above the padding is a chip of the word's pattern, in its place of R61. -/
theorem wencResult : Obligations.WencResult := by
  intro v s
  refine ⟨wencWord v, exec_wenc v s, getLsbD_wencWord v (j := 0) rfl, getLsbD_wencWord v (j := 1) rfl,
    fun i hi => ?_, ?_, ?_, fun i hi => getLsbD_leftPack_padding _ hi⟩
  · obtain ⟨hfirst, hsecond⟩ := getElem?_wordPattern_pair v hi
    have h1 := getLsbD_wencWord v hfirst
    have h2 := getLsbD_wencWord v hsecond
    rw [show 31 - (20 - 2 * i) = 10 + 2 * i + 1 by omega] at h1
    rw [show 31 - (21 - 2 * i) = 10 + 2 * i by omega] at h2
    exact ⟨h1, h2⟩
  · rw [← parityBit_payload]
    exact getLsbD_wencWord v (j := 22) rfl
  · rw [← parityBit_payload]
    exact getLsbD_wencWord v (j := 23) rfl

end Sys2Proof.Machine
end

section
/-!
PROOFS. `PARITY` and `WDEC` in every state, and what an encoded word holds (spec/40_word_codec.md, R90 to R99).
-/

namespace Sys2Proof.Machine

/-! ### Payloads and words -/

/-- The payload is the word modulo 1024 (R65). -/
theorem toNat_payload (v : Word) : (payload v).toNat = v.toNat % 1024 := by
  simp [payload]

/-- Two words have the same payload exactly when they agree modulo 1024 (R65). -/
theorem payload_eq_iff (v w : Word) :
    payload v = payload w ↔ v.toNat % 1024 = w.toNat % 1024 := by
  rw [← BitVec.toNat_inj, toNat_payload, toNat_payload]

/-- The word of a payload has the payload's bits, and 0 above them (R66). -/
theorem getLsbD_wordOfPayload (d : Payload) {i : Nat} (hi : i < 16) :
    (wordOfPayload d).getLsbD i = d.getLsbD i := by
  simp [wordOfPayload, hi]

/-- A payload put in a word is that word's payload (R65, R66). -/
@[simp] theorem payload_wordOfPayload (d : Payload) : payload (wordOfPayload d) = d := by
  ext i hi
  simp [payload, wordOfPayload, hi]
  omega

/-- The word of a word's payload keeps the low ten bits (R65, R66). -/
theorem wordOfPayload_payload (v : Word) :
    wordOfPayload (payload v) = BitVec.ofNat 16 (v.toNat % 1024) := by
  apply BitVec.eq_of_toNat_eq
  rw [wordOfPayload, BitVec.toNat_setWidth, toNat_payload, BitVec.toNat_ofNat]

/-! ### `PARITY` -/

/-- Settles O6: the answer is the odd-parity bit, and `PCNT` is the count it is taken from. -/
theorem parityResult : Obligations.ParityResult := by
  intro v s
  rw [← parityBit_payload, ← pcntOf_payload]
  rfl

/-! ### The operation `WDEC` -/

/-- The recovered payload bit `i` is the second chip of its pair, container bit `10 + 2i` (R61, R96). -/
theorem getLsbD_wdecPayload (c : Container) {i : Nat} (hi : i < 10) :
    (wdecPayload c).getLsbD i = c.getLsbD (10 + 2 * i) := by
  have hpair : 3 + 2 * (9 - i) < 24 := by omega
  have hplace : 31 - (3 + 2 * (9 - i)) = 10 + 2 * i := by omega
  rw [wdecPayload, BitVec.getLsbD_ofNat, testBit_bitsToNat _ i (by simpa using hi)]
  simp [hi, chips24, hpair, hplace]

/-- The recovered payload has as many ones as the second chips of the ten pairs (R96). -/
theorem payloadOnes_wdecPayload (c : Container) :
    payloadOnes (wordOfPayload (wdecPayload c)) = containerOnes c := by
  rw [payloadOnes, containerOnes]
  congr 1
  refine List.filter_congr fun i hi => ?_
  have hi10 : i < 10 := List.mem_range.1 hi
  rw [getLsbD_wordOfPayload _ (by omega), getLsbD_wdecPayload c hi10]

/-- `WDEC` leaves the number of ones it recovered in `PCNT` (R96). -/
theorem pcntOf_wdecPayload (c : Container) :
    pcntOf (wdecPayload c) = BitVec.ofNat 4 (containerOnes c) := by
  rw [← payloadOnes_wdecPayload, ← pcntOf_payload, payload_wordOfPayload]

/-- The verdict compares container bit 8 with the odd parity of the recovered bits (R96). -/
theorem wdecParityOk_eq (c : Container) :
    wdecParityOk c = (c.getLsbD 8 == decide (containerOnes c % 2 = 0)) := by
  have hchip : (chips24 c).getD 23 false = c.getLsbD 8 := rfl
  rw [wdecParityOk, hchip, ← payloadOnes_wdecPayload, ← parityBit_payload, payload_wordOfPayload]

/-- The saturating increment as a number: `min(n + 1, 0xFFFF)` (R97, R132). -/
theorem toNat_saturatingInc (n : BitVec 16) :
    (saturatingInc n).toNat = min (n.toNat + 1) 0xFFFF := by
  unfold saturatingInc
  split
  case isTrue h => subst h; rfl
  case isFalse h => bv_omega

/-- `PERRCNT` after a verdict: one more, up to 0xFFFF, exactly when the parity is wrong (R97). -/
theorem countMismatch_not_perrcnt (s : State) (ok : Bool) :
    (s.countMismatch (!ok)).perrcnt =
      BitVec.ofNat 16 (if ok then s.perrcnt.toNat else min (s.perrcnt.toNat + 1) 0xFFFF) := by
  rw [State.countMismatch_perrcnt]
  cases ok
  case false => simp [← toNat_saturatingInc]
  case true => simp

/-- `WDEC` answers the recovered word and its verdict, leaves the count of ones in `PCNT`, and counts a
mismatch (R96, R97). -/
theorem exec_wdec (c : Container) (s : State) :
    exec (.wdec c) s = .next { s with
      pcnt := BitVec.ofNat 4 (containerOnes c)
      perrcnt := (s.countMismatch (!wdecParityOk c)).perrcnt
      outcome := 0
      results := s.results ++
        [.ok 0x3#4 (.decoded (wordOfPayload (wdecPayload c)) (wdecParityOk c))] } := by
  rw [← pcntOf_wdecPayload]
  rfl

/-- Settles O8: the word is the recovered payload, its bits the second chips of the ten pairs. -/
theorem wdecResult : Obligations.WdecResult := by
  intro c s
  refine ⟨wordOfPayload (wdecPayload c), wdecParityOk c, ?_, fun i hi => ?_, wdecParityOk_eq c⟩
  · rw [exec_wdec, countMismatch_not_perrcnt]
  · rw [getLsbD_wordOfPayload _ hi]
    by_cases h10 : i < 10
    · rw [getLsbD_wdecPayload c h10, decide_eq_true h10, Bool.true_and]
    · rw [BitVec.getLsbD_of_ge _ _ (not_lt.1 h10), decide_eq_false h10, Bool.false_and]

/-! ### `WDEC` after `WENC` -/

/-- The 24 chips of an encoded word are its pattern (R92, R94). -/
theorem chips24_wencWord (v : Word) : chips24 (wencWord v) = wordPattern (payload v) :=
  chips24_leftPack _ (length_wordPattern _)

/-- Chip 23 of an encoded word is the parity of its payload (R92). -/
theorem getElem?_chips24_wencWord_last (v : Word) :
    (chips24 (wencWord v))[23]? = some (parityBit (payload v)) := by
  rw [chips24_wencWord]
  rfl

/-- The second chip of each pair is the payload bit itself (R61, R91). -/
theorem getLsbD_wencWord_second (v : Word) {i : Nat} (hi : i < 10) :
    (wencWord v).getLsbD (10 + 2 * i) = v.getLsbD i := by
  have hplace : 31 - (21 - 2 * i) = 10 + 2 * i := by omega
  rw [← hplace]
  exact getLsbD_wencWord v (getElem?_wordPattern_pair v hi).2

/-- `WDEC` recovers the payload that was encoded (R99). -/
@[simp] theorem wdecPayload_wencWord (v : Word) : wdecPayload (wencWord v) = payload v := by
  apply BitVec.eq_of_getLsbD_eq
  intro i hi
  rw [getLsbD_wdecPayload _ hi, getLsbD_wencWord_second v hi, getLsbD_payload v hi]

/-- An encoded word passes the parity check (R99). -/
@[simp] theorem wdecParityOk_wencWord (v : Word) : wdecParityOk (wencWord v) = true := by
  rw [wdecParityOk, List.getD_eq_getElem?_getD, getElem?_chips24_wencWord_last, Option.getD_some,
    wdecPayload_wencWord, beq_self_eq_true]

/-- An encoded word has as many ones among its second chips as its payload has (R91). -/
theorem containerOnes_wencWord (v : Word) : containerOnes (wencWord v) = payloadOnes v := by
  rw [payloadOnes, containerOnes]
  congr 1
  exact List.filter_congr fun i hi => getLsbD_wencWord_second v (List.mem_range.1 hi)

/-- Two words have the same container exactly when they agree modulo 1024 (R92, R99). -/
theorem wencWord_eq_iff (v w : Word) :
    wencWord v = wencWord w ↔ v.toNat % 1024 = w.toNat % 1024 := by
  rw [← payload_eq_iff]
  constructor
  · intro h
    rw [← wdecPayload_wencWord v, h, wdecPayload_wencWord]
  · exact congrArg fun d => leftPack (wordPattern d)

/-- Settles O9: `WDEC` recovers the payload and the parity of an encoded word, so the container gives back a
word of ten bits. -/
theorem wdecInvertsWenc : Obligations.WdecInvertsWenc := by
  refine ⟨fun v s => ?_, getElem?_chips24_wencWord_last, fun v w hv hw h => ?_⟩
  · rw [exec_wdec, containerOnes_wencWord, wdecParityOk_wencWord, wdecPayload_wencWord,
      wordOfPayload_payload]
    rfl
  · rw [wencWord_eq_iff] at h
    apply BitVec.eq_of_toNat_eq
    omega

/-! ### The balance and the range of an encoded word -/

/-- The ones of a chip string in two parts. -/
theorem onesIn_append (l m : List Chip) : onesIn (l ++ m) = onesIn l + onesIn m := by
  simp [onesIn]

/-- A pair holds one 1, whatever its bit (R91). -/
theorem onesIn_pair (b : Bool) : onesIn (pair b) = 1 := by
  cases b <;> rfl

/-- A run of pairs holds one 1 for each bit (R91). -/
theorem onesIn_flatMap_pair (l : List Bool) : onesIn (l.flatMap pair) = l.length := by
  induction l with
  | nil => rfl
  | cons b l ih =>
    rw [List.flatMap_cons, onesIn_append, onesIn_pair, ih, List.length_cons, Nat.add_comm]

/-- The pattern of a word holds one 1 in the marker, one in each payload pair, one in the parity pair (R92). -/
theorem onesIn_wordPattern (d : Payload) : onesIn (wordPattern d) = 12 := by
  rw [wordPattern, onesIn_append, onesIn_append, onesIn_flatMap_pair, onesIn_pair, length_payloadBits]
  rfl

/-- The start marker bounds the container from both sides (R61, R92). -/
theorem wencWord_range (v : Word) :
    0x40000000 ≤ (wencWord v).toNat ∧ (wencWord v).toNat < 0x80000000 := by
  have hhigh : (wencWord v).msb = false := getLsbD_wencWord v (j := 0) rfl
  have hmark : (wencWord v).getLsbD 30 = true := getLsbD_wencWord v (j := 1) rfl
  have hlt : 2 * (wencWord v).toNat < 2 ^ 32 := BitVec.msb_eq_false_iff_two_mul_lt.1 hhigh
  have hge : 2 ^ 30 ≤ (wencWord v).toNat := Nat.ge_two_pow_of_testBit hmark
  omega

/-- `left_pack` leaves the low byte 0 (R93). -/
theorem toNat_leftPack_mod (l : List Chip) : (leftPack l).toNat % 256 = 0 := by
  rw [leftPack, BitVec.toNat_ofNat]
  omega

/-- Settles O10: the ones are counted pair by pair, the range is the start marker's, and only the payload is
encoded. -/
theorem encodedWordIsBalanced : Obligations.EncodedWordIsBalanced := by
  intro v
  obtain ⟨hge, hlt⟩ := wencWord_range v
  refine ⟨?_, length_chips24 _, hge, hlt, toNat_leftPack_mod _, fun w => (wencWord_eq_iff v w).2⟩
  rw [chips24_wencWord, onesIn_wordPattern]

end Sys2Proof.Machine
end

section
/-!
PROOFS. The chips of a frame and the operation `FTX` (spec/41_frame_signal.md, R110 to R112).
-/

namespace Sys2Proof.Machine

open Sys2Proof.Config (Params)

/-! ### The chips of the words -/

/-- The chips before the words: preamble and start group (R110, R112). -/
def frameHeader : List Chip := Config.syncPattern ++ Config.startPattern

@[simp] theorem length_frameHeader : frameHeader.length = 15 := rfl

/-- A frame is its header, its words and the end pattern (R110). -/
theorem frameChips_eq (p : Params) (ws : List Word) :
    frameChips p ws = frameHeader ++ (wordChips ws ++ p.endPattern) := by
  simp only [frameChips, frameHeader, List.append_assoc]

/-- The chips of a word stand before those of the words after it (R62). -/
@[simp] theorem wordChips_cons (v : Word) (ws : List Word) :
    wordChips (v :: ws) = chips24 (wencWord v) ++ wordChips ws := rfl

@[simp] theorem wordChips_append (vs ws : List Word) :
    wordChips (vs ++ ws) = wordChips vs ++ wordChips ws :=
  List.flatMap_append

/-- Each word has 24 chips (R62, R92). -/
@[simp] theorem length_wordChips (ws : List Word) : (wordChips ws).length = 24 * ws.length := by
  induction ws with
  | nil => rfl
  | cons v ws ih => simp only [wordChips_cons, List.length_append, length_chips24, ih,
      List.length_cons]; omega

/-- The length of a frame in chips (R110). -/
@[simp] theorem length_frameChips (p : Params) (ws : List Word) :
    (frameChips p ws).length = 15 + 24 * ws.length + p.endPattern.length := by
  simp [frameChips_eq, Nat.add_assoc]

/-- The words before one word, that word, and the words after it. -/
theorem wordChips_split {ws : List Word} {i : Nat} {v : Word} (h : ws[i]? = some v) :
    wordChips ws =
      wordChips (ws.take i) ++ (chips24 (wencWord v) ++ wordChips (ws.drop (i + 1))) := by
  obtain ⟨hi, rfl⟩ := List.getElem?_eq_some_iff.1 h
  rw [← wordChips_cons, ← List.drop_eq_getElem_cons hi, ← wordChips_append, List.take_append_drop]

/-- Chip `j` of an encoded word is bit `31 - j` of its container (R94). -/
theorem getElem?_chips24 (c : Container) {j : Nat} (hj : j < 24) :
    (chips24 c)[j]? = some (c.getLsbD (31 - j)) := by
  simp [chips24, hj]

/-- Chip `j` of word `i` of a frame (R110). -/
theorem getElem?_frameChips_word (p : Params) {ws : List Word} {i j : Nat} {v : Word}
    (h : ws[i]? = some v) (hj : j < 24) :
    (frameChips p ws)[15 + 24 * i + j]? = some ((wencWord v).getLsbD (31 - j)) := by
  obtain ⟨hi, -⟩ := List.getElem?_eq_some_iff.1 h
  have hbefore : (frameHeader ++ wordChips (ws.take i)).length = 15 + 24 * i := by
    simp [Nat.min_eq_left (Nat.le_of_lt hi)]
  rw [frameChips_eq, wordChips_split h]
  simp only [← List.append_assoc]
  rw [List.append_assoc, List.append_assoc, List.getElem?_append_right (by omega), hbefore,
    Nat.add_sub_cancel_left, List.getElem?_append_left (by simpa using hj), getElem?_chips24 _ hj]

/-! ### The operation `FTX` -/

/-- Settles O11: the stream is the frame's chips, cut at the header, at each word and at the end pattern. -/
theorem ftxResult : Obligations.FtxResult := by
  intro w s hpos hcap
  refine ⟨frameChips s.par w, ?_, length_frameChips _ _, rfl,
    fun i v h j hj => getElem?_frameChips_word _ h hj, ?_⟩
  · have hfits : ¬(w.length = 0 ∨ s.par.txCapacity < w.length) := by omega
    exact if_neg hfits
  · rw [frameChips_eq, ← List.append_assoc]
    exact List.drop_left' (by simp)

/-- Settles O12: both lengths fail the check of `FTX`. -/
theorem ftxRefusesEmptyOrLong : Obligations.FtxRefusesEmptyOrLong := by
  intro w s h
  exact if_pos (h.imp_left List.length_eq_zero_iff.2)

end Sys2Proof.Machine
end

section
/-!
PROOFS. The transmitter drives the chips of a frame one a tick (R113 to R118). The simulation: `pending` reads
off a transmitter the chips it has still to drive, and every tick drives the first of them.
-/

namespace Sys2Proof.Machine

open Sys2Proof.Config (Params)

/-! ### The idle transmitter -/

/-- An idle transmitter drives 0 and changes nothing else (R113). -/
theorem TxUnit.tick_idle {p : Params} {tx : TxUnit} (h : tx.txst = .idle) :
    TxUnit.tick p tx = .ok tx.halt := by
  rw [TxUnit.halt, ← h, TxUnit.tick, h]

/-- A stopped transmitter stays as the stop left it (R117). -/
theorem TxUnit.after_halt (p : Params) (tx : TxUnit) (n : Nat) :
    TxUnit.after p tx.halt n = .ok tx.halt := by
  induction n with
  | zero => rfl
  | succ n ih => rw [TxUnit.after, TxUnit.tick_idle rfl]; exact ih

/-- Settles O16: the stop makes the transmitter idle, and an idle transmitter drives 0. -/
theorem stoppedTransmitterStaysSilent : Obligations.StoppedTransmitterStaysSilent :=
  TxUnit.after_halt

/-! ### The chips still to be driven -/

/-- The chips a transmitter that holds the frame `ws` has still to drive, in time order. -/
def TxUnit.pending (p : Params) (ws : List Word) (tx : TxUnit) : List Chip :=
  match tx.txst with
  | .idle => []
  | .sync =>
    Config.syncPattern.drop tx.txpos.toNat ++ (Config.startPattern ++ (wordChips ws ++ p.endPattern))
  | .start => Config.startPattern.drop tx.txpos.toNat ++ (wordChips ws ++ p.endPattern)
  | .word =>
    (List.range (24 - tx.txpos.toNat)).map (fun j => tx.txsr.getLsbD (31 - j)) ++
      (wordChips (ws.drop (tx.txidx.toNat + 1)) ++ p.endPattern)
  | .trailer => p.endPattern.drop tx.txpos.toNat

/-- The transmitter is inside its ranges, holds the frame `ws`, and has not ended it (R13, R118). -/
structure TxUnit.Sending (p : Params) (ws : List Word) (tx : TxUnit) : Prop where
  position : tx.positionOk p
  count : tx.txcnt.toNat + 1 = ws.length
  loaded : ∀ i v, ws[i]? = some v → Memory.read tx.txbuf i = wencWord v
  unfinished : tx.txst ≠ .idle → tx.txDone = false

/-- The tick takes `tx` to `u`, drives the first pending chip, and sets `TX_DONE` exactly when it ends the frame
(R116, R118). -/
structure TxUnit.Drives (p : Params) (ws : List Word) (tx u : TxUnit) : Prop where
  tick : TxUnit.tick p tx = .ok u
  pending : tx.pending p ws = u.lineOut :: u.pending p ws
  txDone : u.txDone = decide (u.txst = .idle)

/-- The chips of a shift register read from bit 31 down: one bit first, then those of the register shifted (R115). -/
theorem shiftChips_succ (x : BitVec 32) (n : Nat) (hn : n < 32) :
    (List.range (n + 1)).map (fun j => x.getLsbD (31 - j)) =
      x.getLsbD 31 :: (List.range n).map (fun j => (x <<< 1).getLsbD (31 - j)) := by
  rw [List.range_succ_eq_map, List.map_cons, List.map_map]
  refine congrArg _ (List.map_congr_left fun j hj => ?_)
  have hjn : j < n := List.mem_range.1 hj
  rw [Function.comp_apply, BitVec.getLsbD_shiftLeft, decide_eq_true (by omega),
    decide_eq_false (by omega), show 31 - j - 1 = 31 - j.succ by omega]
  rfl

/-- From position `i` on, a segment's first chip is the one at `i`. -/
theorem drop_eq_cons_of_getElem? {l : List Chip} {i : Nat} {c : Chip} (hc : l[i]? = some c) :
    l.drop i = c :: l.drop (i + 1) := by
  obtain ⟨hi, rfl⟩ := List.getElem?_eq_some_iff.1 hc
  exact List.drop_eq_getElem_cons hi

/-- The transmitter after it has loaded slot `i` (R114, R115). -/
def TxUnit.enterWord (tx : TxUnit) (i : BitVec 16) : TxUnit :=
  { tx with txst := .word, txpos := 0, txidx := i, txsr := Memory.read tx.txbuf i.toNat }

/-- On entering `TX_WORD` the chips of the word loaded are pending, and those of the words after it (R114, R115). -/
theorem TxUnit.pending_enterWord {p : Params} {ws : List Word} {tx : TxUnit} {i : BitVec 16}
    (hloaded : ∀ i v, ws[i]? = some v → Memory.read tx.txbuf i = wencWord v)
    (hi : i.toNat < ws.length) :
    (tx.enterWord i).pending p ws = wordChips (ws.drop i.toNat) ++ p.endPattern := by
  rw [List.drop_eq_getElem_cons hi, wordChips_cons,
    ← hloaded i.toNat _ (List.getElem?_eq_getElem hi), List.append_assoc]
  rfl

/-- The end pattern is never empty (R2). -/
theorem Config.Params.endPattern_ne_nil {p : Params} (hp : p.valid = true) : p.endPattern ≠ [] := by
  intro h
  have hlen := (Config.Params.valid_endPattern p hp).1
  rw [h] at hlen
  simp at hlen

/-- Exactly an idle transmitter has nothing left to drive (R13, R116). -/
theorem TxUnit.pending_eq_nil_iff {p : Params} (hp : p.valid = true) (ws : List Word) {tx : TxUnit}
    (hpos : tx.positionOk p) : tx.pending p ws = [] ↔ tx.txst = .idle := by
  have hend := Config.Params.endPattern_ne_nil hp
  rcases hst : tx.txst <;> simp only [TxUnit.positionOk, TxUnit.pending, hst] at hpos ⊢
  case trailer => simpa using hpos.1
  all_goals simp [hend]

/-! ### One tick in each segment -/

/-- A tick in `TX_SYNC` (R114). -/
theorem TxUnit.Sending.drives_sync {p : Params} {ws : List Word} {tx : TxUnit}
    (hs : tx.Sending p ws) (hst : tx.txst = .sync) : ∃ u, tx.Drives p ws u := by
  have hdone := hs.unfinished (by simp [hst])
  have hposition := hs.position
  simp only [TxUnit.positionOk, hst] at hposition
  obtain ⟨hpos, -, -⟩ := hposition
  have hlt : tx.txpos.toNat < Config.syncPattern.length := Nat.lt_succ_of_le hpos
  have hchip := List.getElem?_eq_getElem hlt
  by_cases h9 : tx.txpos = 9
  case pos =>
    refine ⟨{ tx with lineOut := Config.syncPattern[tx.txpos.toNat], txst := .start, txpos := 0 },
      ?_, ?_, by simp [hdone]⟩
    · simp only [TxUnit.tick, hst, TxUnit.tickSync, hchip, if_pos h9]
    · simp only [TxUnit.pending, hst, h9]; rfl
  case neg =>
    have hne : tx.txpos.toNat ≠ 9 := fun h => h9 (BitVec.eq_of_toNat_eq h)
    refine ⟨{ tx with lineOut := Config.syncPattern[tx.txpos.toNat], txpos := tx.txpos + 1 },
      ?_, ?_, by simp [hdone, hst]⟩
    · simp only [TxUnit.tick, hst, TxUnit.tickSync, hchip, if_neg h9]
    · simp only [TxUnit.pending, hst, txpos_succ tx.txpos (by omega),
        drop_eq_cons_of_getElem? hchip, List.cons_append]

/-- A tick in `TX_START`; the last one loads the first word (R114). -/
theorem TxUnit.Sending.drives_start {p : Params} {ws : List Word} {tx : TxUnit}
    (hs : tx.Sending p ws) (hst : tx.txst = .start) : ∃ u, tx.Drives p ws u := by
  have hdone := hs.unfinished (by simp [hst])
  have hcount := hs.count
  have hposition := hs.position
  simp only [TxUnit.positionOk, hst] at hposition
  obtain ⟨hpos, -, hcap⟩ := hposition
  have hlt : tx.txpos.toNat < Config.startPattern.length := Nat.lt_succ_of_le hpos
  have hchip := List.getElem?_eq_getElem hlt
  by_cases h4 : tx.txpos = 4
  case pos =>
    refine ⟨({ tx with lineOut := Config.startPattern[tx.txpos.toNat] } : TxUnit).enterWord 0,
      ?_, ?_, by simp [TxUnit.enterWord, hdone]⟩
    · simp only [TxUnit.tick, hst, TxUnit.tickStart, hchip, if_pos h4]
      exact TxUnit.load_ok _ _ _ (Nat.zero_lt_of_lt hcap)
    · rw [TxUnit.pending_enterWord]
      · simp only [TxUnit.pending, hst, h4]; rfl
      · exact hs.loaded
      · exact Nat.lt_of_lt_of_eq (Nat.succ_pos _) hcount
  case neg =>
    have hne : tx.txpos.toNat ≠ 4 := fun h => h4 (BitVec.eq_of_toNat_eq h)
    refine ⟨{ tx with lineOut := Config.startPattern[tx.txpos.toNat], txpos := tx.txpos + 1 },
      ?_, ?_, by simp [hdone, hst]⟩
    · simp only [TxUnit.tick, hst, TxUnit.tickStart, hchip, if_neg h4]
    · simp only [TxUnit.pending, hst, txpos_succ tx.txpos (by omega),
        drop_eq_cons_of_getElem? hchip, List.cons_append]

/-- A tick in `TX_WORD`: within a word, from a word to the next, and from the last word to the trailer (R115). -/
theorem TxUnit.Sending.drives_word {p : Params} {ws : List Word} {tx : TxUnit}
    (hs : tx.Sending p ws) (hst : tx.txst = .word) : ∃ u, tx.Drives p ws u := by
  have hdone := hs.unfinished (by simp [hst])
  have hcount := hs.count
  have hcnt := tx.txcnt.isLt
  have hposition := hs.position
  simp only [TxUnit.positionOk, hst] at hposition
  obtain ⟨hpos, hidx, hcap⟩ := hposition
  have hpending : tx.pending p ws = tx.txsr.getLsbD 31 ::
      ((List.range (23 - tx.txpos.toNat)).map (fun j => (tx.txsr <<< 1).getLsbD (31 - j)) ++
        (wordChips (ws.drop (tx.txidx.toNat + 1)) ++ p.endPattern)) := by
    simp only [TxUnit.pending, hst, show 24 - tx.txpos.toNat = 23 - tx.txpos.toNat + 1 by omega,
      shiftChips_succ _ _ (show 23 - tx.txpos.toNat < 32 by omega), List.cons_append]
  by_cases h23 : tx.txpos.toNat < 23
  case pos =>
    refine ⟨{ tx with
      lineOut := tx.txsr.getLsbD 31, txsr := tx.txsr <<< 1, txpos := tx.txpos + 1 },
      ?_, ?_, by simp [hdone, hst]⟩
    · simp only [TxUnit.tick, hst, TxUnit.tickWord, if_pos h23]
    · rw [hpending]
      simp only [TxUnit.pending, hst, txpos_succ tx.txpos (by omega),
        show 24 - (tx.txpos.toNat + 1) = 23 - tx.txpos.toNat by omega]
  case neg =>
    rw [show 23 - tx.txpos.toNat = 0 by omega] at hpending
    by_cases hmore : tx.txidx.toNat < tx.txcnt.toNat
    case pos =>
      have hnext := txidx_succ tx.txidx (by omega)
      refine ⟨({ tx with lineOut := tx.txsr.getLsbD 31, txsr := tx.txsr <<< 1 } : TxUnit).enterWord
        (tx.txidx + 1), ?_, ?_, by simp [TxUnit.enterWord, hdone]⟩
      · simp only [TxUnit.tick, hst, TxUnit.tickWord, if_neg h23, if_pos hmore]
        exact TxUnit.load_ok _ _ _ (by omega)
      · rw [TxUnit.pending_enterWord, hpending, hnext]
        · rfl
        · exact hs.loaded
        · omega
    case neg =>
      refine ⟨{ tx with
        lineOut := tx.txsr.getLsbD 31, txsr := tx.txsr <<< 1, txst := .trailer, txpos := 0 },
        ?_, ?_, by simp [hdone]⟩
      · simp only [TxUnit.tick, hst, TxUnit.tickWord, if_neg h23, if_neg hmore]
      · rw [hpending, List.drop_eq_nil_of_le (by omega)]
        rfl

/-- A tick in `TX_END`; the last one ends the frame (R116). -/
theorem TxUnit.Sending.drives_trailer {p : Params} (hp : p.valid = true) {ws : List Word}
    {tx : TxUnit} (hs : tx.Sending p ws) (hst : tx.txst = .trailer) : ∃ u, tx.Drives p ws u := by
  have hdone := hs.unfinished (by simp [hst])
  have hend := Config.Params.valid_endPattern p hp
  have hposition := hs.position
  simp only [TxUnit.positionOk, hst] at hposition
  obtain ⟨hlt, -, -⟩ := hposition
  have hchip := List.getElem?_eq_getElem hlt
  by_cases hlast : tx.txpos.toNat + 1 = p.endPattern.length
  case pos =>
    refine ⟨{ tx with lineOut := p.endPattern[tx.txpos.toNat], txst := .idle, txDone := true },
      ?_, ?_, by simp⟩
    · simp only [TxUnit.tick, hst, TxUnit.tickTrailer, hchip, if_pos hlast]
    · simp only [TxUnit.pending, hst, drop_eq_cons_of_getElem? hchip, hlast, List.drop_length]
  case neg =>
    refine ⟨{ tx with lineOut := p.endPattern[tx.txpos.toNat], txpos := tx.txpos + 1 },
      ?_, ?_, by simp [hdone, hst]⟩
    · simp only [TxUnit.tick, hst, TxUnit.tickTrailer, hchip, if_neg hlast]
    · simp only [TxUnit.pending, hst, txpos_succ tx.txpos (by omega),
        drop_eq_cons_of_getElem? hchip]

/-! ### All ticks of a frame -/

/-- The simulation: while the frame lasts, a tick drives the first pending chip and keeps the frame (R118). -/
theorem TxUnit.Sending.drives {p : Params} (hp : p.valid = true) {ws : List Word} {tx : TxUnit}
    (hs : tx.Sending p ws) (hbusy : tx.txst ≠ .idle) :
    ∃ u, tx.Drives p ws u ∧ u.Sending p ws ∧ u.txbuf = tx.txbuf := by
  have hdrives : ∃ u, tx.Drives p ws u := by
    rcases hst : tx.txst
    case idle => exact absurd hst hbusy
    case sync => exact hs.drives_sync hst
    case start => exact hs.drives_start hst
    case word => exact hs.drives_word hst
    case trailer => exact hs.drives_trailer hp hst
  obtain ⟨u, hu⟩ := hdrives
  obtain ⟨t, ht, hposition⟩ := TxUnit.tick_ok p tx hp hs.position
  obtain rfl : u = t := by simpa [hu.tick] using ht
  obtain ⟨hbuf, hcnt⟩ := TxUnit.tick_frame p tx u hu.tick
  exact ⟨u, hu, ⟨hposition, by rw [hcnt]; exact hs.count, by rw [hbuf]; exact hs.loaded,
    fun h => by rw [hu.txDone, decide_eq_false h]⟩, hbuf⟩

/-- From any point of a frame, tick `k` drives pending chip `k`, and `TX_DONE` becomes 1 in the tick of the last
one (R116, R118). -/
theorem TxUnit.Sending.after_chip {p : Params} (hp : p.valid = true) {ws : List Word} {tx : TxUnit}
    (hs : tx.Sending p ws) {k : Nat} {c : Chip} (hc : (tx.pending p ws)[k]? = some c) :
    ∃ t, TxUnit.after p tx (k + 1) = .ok t ∧ t.lineOut = c ∧
      t.txDone = decide (k + 1 = (tx.pending p ws).length) ∧
      (t.txst = .idle ↔ k + 1 = (tx.pending p ws).length) ∧ t.txbuf = tx.txbuf := by
  have hbusy : tx.txst ≠ .idle := by
    intro hidle
    rw [(TxUnit.pending_eq_nil_iff hp ws hs.position).2 hidle] at hc
    simp at hc
  obtain ⟨u, hu, hus, hbuf⟩ := hs.drives hp hbusy
  rw [TxUnit.after, hu.tick, hu.pending, List.length_cons]
  rw [hu.pending] at hc
  cases k with
  | zero =>
    have hidle : u.txst = .idle ↔ 0 + 1 = (u.pending p ws).length + 1 := by
      rw [← TxUnit.pending_eq_nil_iff hp ws hus.position, ← List.length_eq_zero_iff]
      omega
    exact ⟨u, rfl, by simpa using hc, by rw [hu.txDone, decide_eq_decide.2 hidle], hidle, hbuf⟩
  | succ k =>
    obtain ⟨t, ht, hline, hdone, hidle, htbuf⟩ := after_chip hp hus hc
    exact ⟨t, ht, hline, by simpa using hdone, by simpa using hidle, htbuf.trans hbuf⟩

/-- The start of a frame: its first position, with the whole frame pending (R113, R118). -/
theorem TxUnit.begin_sending {p : Params} {ws : List Word} {tx : TxUnit} (hcap : ws.length ≤ p.txCapacity)
    (hcount : tx.txcnt.toNat + 1 = ws.length)
    (hloaded : ∀ i v, ws[i]? = some v → Memory.read tx.txbuf i = wencWord v) :
    tx.begin.Sending p ws where
  position := ⟨Nat.zero_le 9, rfl, by simp; omega⟩
  count := hcount
  loaded := hloaded
  unfinished := fun _ => rfl

/-- At the start of a frame all its chips are pending (R118). -/
theorem TxUnit.pending_begin (p : Params) (ws : List Word) (tx : TxUnit) :
    tx.begin.pending p ws = frameChips p ws := by
  simp only [frameChips, List.append_assoc]
  rfl

/-- Settles O15, by the simulation from the start of the frame; after its last chip the transmitter is idle. -/
theorem transmitterDrivesFrame : Obligations.TransmitterDrivesFrame := by
  intro p tx w hp _ hcap hcount hloaded
  have hs := TxUnit.begin_sending hcap hcount hloaded
  have hchip {k : Nat} {c : Chip} (hc : (frameChips p w)[k]? = some c) :=
    hs.after_chip hp (k := k) (c := c) (by rwa [TxUnit.pending_begin])
  simp only [TxUnit.pending_begin] at hchip
  refine ⟨fun k c hc => ?_, fun k hk => ?_⟩
  · obtain ⟨t, ht, hline, hdone, -, hbuf⟩ := hchip hc
    exact ⟨t, ht, hline, hdone, hbuf⟩
  · have hlen : (frameChips p w).length - 1 + 1 = (frameChips p w).length := by
      rw [length_frameChips]; omega
    obtain ⟨t, ht, -, hdone, hidle, -⟩ := hchip (k := (frameChips p w).length - 1)
      (List.getElem?_eq_getElem (by omega))
    rw [hlen] at ht hdone hidle
    have hrest : TxUnit.after p tx.begin (k + 1) = .ok t.halt := by
      rw [show k + 1 = (frameChips p w).length + (k - (frameChips p w).length + 1) by omega,
        TxUnit.after_add _ _ _ _ _ ht, TxUnit.after, TxUnit.tick_idle (hidle.2 rfl)]
      exact TxUnit.after_halt _ _ _
    exact ⟨t.halt, hrest, rfl, rfl, by simpa using hdone⟩

end Sys2Proof.Machine
end

section
/-!
PROOFS. The frame sync detector (R121 to R126): while the receiver hunts, only `RXST` moves, as a finite automaton
over the chips.
-/

namespace Sys2Proof.Machine

/-! ### The detector as an automaton -/

/-- The states of the hunt, `RX_QUIET` to `RX_P3` (R121 to R126). -/
def RxState.hunts : RxState → Bool
  | .quiet | .arm | .high | .z | .p1 | .p2 | .p3 => true
  | _ => false

/-- The two spellings of the hunt agree. -/
theorem RxUnit.hunting_iff (rx : RxUnit) : rx.hunting ↔ rx.rxst.hunts = true := by
  rcases hst : rx.rxst <;> simp [RxUnit.hunting, RxState.hunts, hst]

/-- Where a chip takes the hunt (R121 to R126); it stops at a start group. -/
def RxState.hunt : RxState → Chip → RxState
  | .quiet, c => if c then .quiet else .arm
  | .arm, c => if c then .high else .arm
  | .high, c => if c then .high else .z
  | .z, c => if c then .high else .p1
  | .p1, c => if c then .p2 else .arm
  | .p2, c => if c then .p3 else .z
  | .p3, c => if c then .wsA else .z
  | st, _ => st

/-- A hunting receiver moves `RXST` as the automaton does, and nothing else (R121 to R126). -/
theorem RxUnit.tick_of_hunts (slots : Nat) (c : Chip) {rx : RxUnit} (h : rx.rxst.hunts = true) :
    RxUnit.tick slots c rx = ({ rx with rxst := rx.rxst.hunt c }, false) := by
  obtain ⟨st, _, _, _, _, _⟩ := rx
  cases st <;> cases h <;> cases c <;> rfl

/-- The hunt goes on, or a start group was recognised. -/
theorem RxState.hunt_cases {st : RxState} (c : Chip) (h : st.hunts = true) :
    (st.hunt c).hunts = true ∨ st.hunt c = .wsA := by
  cases st <;> cases h <;> cases c <;> decide

/-- Who hunts after a chip has hunted before it. -/
theorem RxState.hunts_of_hunt {st : RxState} {c : Chip} (h : (st.hunt c).hunts = true) :
    st.hunts = true := by
  revert h
  cases st <;> cases c <;> decide

/-- Who hunts after a chip string has hunted before it. -/
theorem RxState.hunts_of_foldl {st : RxState} {l : List Chip} (h : (l.foldl RxState.hunt st).hunts = true) :
    st.hunts = true := by
  induction l generalizing st with
  | nil => exact h
  | cons c l ih => exact RxState.hunts_of_hunt (ih h)

/-- While the hunt goes on, a chip string moves only `RXST`, and no mismatch is counted. -/
theorem RxUnit.run_of_hunts (slots : Nat) {rx : RxUnit} {l : List Chip}
    (h : (l.foldl RxState.hunt rx.rxst).hunts = true) :
    RxUnit.run slots rx l = ({ rx with rxst := l.foldl RxState.hunt rx.rxst }, 0) := by
  induction l generalizing rx with
  | nil => rfl
  | cons c l ih =>
    rw [RxUnit.run, RxUnit.tick_of_hunts slots c (RxState.hunts_of_foldl h), ih h]
    rfl

/-- The chip that ends a hunt is consumed by the hunt too. -/
theorem RxUnit.run_concat_of_hunts (slots : Nat) {rx : RxUnit} {l : List Chip} (c : Chip)
    (h : (l.foldl RxState.hunt rx.rxst).hunts = true) :
    RxUnit.run slots rx (l ++ [c]) =
      ({ rx with rxst := (l ++ [c]).foldl RxState.hunt rx.rxst }, 0) := by
  rw [RxUnit.run_append, RxUnit.run_of_hunts slots h, List.foldl_concat]
  simp only [RxUnit.run]
  rw [RxUnit.tick_of_hunts slots c h]
  rfl

/-- As long as the receiver has not recognised a start group, the hunt goes on. -/
theorem RxUnit.hunts_of_run_ne (slots : Nat) {rx : RxUnit} (hrx : rx.rxst.hunts = true) {l : List Chip}
    (h : ∀ k, k ≤ l.length → (RxUnit.run slots rx (l.take k)).1.rxst ≠ .wsA) :
    (l.foldl RxState.hunt rx.rxst).hunts = true := by
  induction l using List.reverseRecOn with
  | nil => exact hrx
  | append_singleton l c ih =>
    have hl := ih fun k hk => by
      simpa only [List.take_append_of_le_length hk] using h k (by simp; omega)
    have hlast := h (l ++ [c]).length (Nat.le_refl _)
    rw [List.take_length, RxUnit.run_concat_of_hunts slots c hl, List.foldl_concat] at hlast
    rw [List.foldl_concat]
    exact (RxState.hunt_cases c hl).resolve_right hlast

/-! ### What a state of the detector has seen -/

/-- The chips of the start group, high chip first (R112, R126). -/
def startGroup : List Chip := [true, false, false, true, true, true]

/-- The part of the start group a state of the hunt has matched (R123 to R126). -/
def RxState.matched : RxState → List Chip
  | .high => [true]
  | .z => [true, false]
  | .p1 => [true, false, false]
  | .p2 => [true, false, false, true]
  | .p3 => [true, false, false, true, true]
  | .wsA => startGroup
  | _ => []

/-- The string ends in `pat`, and holds a low chip before it. -/
def EndsAfterLow (pat l : List Chip) : Prop := ∃ x, false ∈ x ∧ l = x ++ pat

/-- Once the line was low, what the next state has matched ends what this state has matched and the chip. -/
theorem RxState.matched_hunt {st : RxState} (c : Chip) (h : st.hunts = true) (hq : st ≠ .quiet) :
    (st.hunt c).matched <:+ st.matched ++ [c] := by
  revert h hq
  cases st <;> cases c <;> decide

/-- One chip more: a pattern that ends the old pattern and the chip ends the new string. -/
theorem EndsAfterLow.concat {pat pat' l : List Chip} {c : Chip} (h : EndsAfterLow pat l)
    (hpat : pat' <:+ pat ++ [c]) : EndsAfterLow pat' (l ++ [c]) := by
  obtain ⟨x, hx, rfl⟩ := h
  obtain ⟨y, hy⟩ := hpat
  exact ⟨x ++ y, List.mem_append_left y hx, by simp [hy]⟩

/-- One chip on: the line was low before it, or the chip itself is low. -/
theorem EndsAfterLow.hunt {st : RxState} {l : List Chip} {c : Chip} (hst : st.hunts = true)
    (h : st ≠ .quiet → EndsAfterLow st.matched l) (hnext : st.hunt c ≠ .quiet) :
    EndsAfterLow (st.hunt c).matched (l ++ [c]) := by
  by_cases hq : st = .quiet
  case pos =>
    subst hq
    cases c
    case false => exact ⟨l ++ [false], by simp, by simp [RxState.hunt, RxState.matched]⟩
    case true => exact absurd rfl hnext
  case neg => exact (h hq).concat (RxState.matched_hunt c hst hq)

/-- Past `RX_QUIET` the string consumed ends in what the state has matched, with a low chip before it. -/
theorem endsAfterLow_of_foldl_hunt {l : List Chip} (h : (l.foldl RxState.hunt .quiet).hunts = true)
    (hne : l.foldl RxState.hunt .quiet ≠ .quiet) :
    EndsAfterLow (l.foldl RxState.hunt .quiet).matched l := by
  induction l using List.reverseRecOn with
  | nil => exact absurd rfl hne
  | append_singleton l c ih =>
    rw [List.foldl_concat] at h hne ⊢
    exact EndsAfterLow.hunt (RxState.hunts_of_hunt h) (ih (RxState.hunts_of_hunt h)) hne

/-- A start group is recognised only where one stands, with a low chip before it (R126). -/
theorem endsAfterLow_of_recognised {l : List Chip} {c : Chip}
    (h : (l.foldl RxState.hunt .quiet).hunts = true)
    (hrec : (l ++ [c]).foldl RxState.hunt .quiet = .wsA) : EndsAfterLow startGroup (l ++ [c]) := by
  rw [List.foldl_concat] at hrec
  have hmatched := EndsAfterLow.hunt (c := c) h (endsAfterLow_of_foldl_hunt h) (by simp [hrec])
  rwa [hrec] at hmatched

/-! ### Where the detector fires -/

/-- Only a high chip leaves the receiver in `RX_QUIET` (R121). -/
theorem RxState.of_hunt_eq_quiet {st : RxState} {c : Chip} (h : st.hunt c = .quiet) :
    st = .quiet ∧ c = true := by
  revert h
  cases st <;> cases c <;> decide

/-- A chip string that leaves the receiver in `RX_QUIET` has no low chip (R121). -/
theorem of_foldl_hunt_eq_quiet {st : RxState} {l : List Chip}
    (h : l.foldl RxState.hunt st = .quiet) : st = .quiet ∧ false ∉ l := by
  induction l generalizing st with
  | nil => exact ⟨h, List.not_mem_nil⟩
  | cons c l ih =>
    obtain ⟨hnext, hl⟩ := ih h
    obtain ⟨hst, rfl⟩ := RxState.of_hunt_eq_quiet hnext
    exact ⟨hst, by simpa using hl⟩

/-- Once the line was low, a start group is recognised wherever the hunt stands (R123 to R126). -/
theorem foldl_hunt_startGroup {st : RxState} (h : st.hunts = true) (hq : st ≠ .quiet) :
    startGroup.foldl RxState.hunt st = .wsA := by
  revert h hq
  cases st <;> decide

/-- Settles O18: the run is the automaton's, which matches a start group after a low chip and nothing else. -/
theorem frameSyncDetector : Obligations.FrameSyncDetector := by
  intro slots rx l hq hnone
  rcases l.eq_nil_or_concat' with rfl | ⟨m, c, rfl⟩
  · refine ⟨fun h => ?_, fun ⟨x, _, h⟩ => ?_⟩
    · simp [RxUnit.run, hq] at h
    · simp at h
  have hm : (m.foldl RxState.hunt rx.rxst).hunts = true :=
    RxUnit.hunts_of_run_ne slots (by rw [hq]; rfl) fun k hk => by
      simpa only [List.take_append_of_le_length hk] using hnone k (by simp; omega)
  rw [RxUnit.run_concat_of_hunts slots c hm]
  rw [hq] at hm ⊢
  refine ⟨endsAfterLow_of_recognised hm, fun ⟨x, hx, hl⟩ => ?_⟩
  have hlast : m ++ [c] = (x ++ [true, false, false, true, true]) ++ [true] := by
    rw [hl, List.append_assoc]; rfl
  have hprefix : m = x ++ [true, false, false, true, true] := (List.append_inj' hlast rfl).1
  rw [hprefix, List.foldl_append] at hm
  show (m ++ [c]).foldl RxState.hunt .quiet = .wsA
  rw [hl, List.foldl_append]
  exact foldl_hunt_startGroup (RxState.hunts_of_foldl hm) fun h => (of_foldl_hunt_eq_quiet h).2 hx

/-! ### A receiver that comes on within a frame -/

/-- The states of the hunt between two pairs of chips, where no start group can be under way (R91, R256). -/
def RxState.betweenPairs : RxState → Bool
  | .quiet | .arm | .high | .z | .p2 => true
  | _ => false

/-- Pairs of unequal chips lead from such states to such states: they hold no three equal chips. -/
theorem betweenPairs_foldl_pairs {st : RxState} (h : st.betweenPairs = true) (bits : List Bool) :
    ((bits.flatMap pair).foldl RxState.hunt st).betweenPairs = true := by
  induction bits generalizing st with
  | nil => exact h
  | cons b bits ih =>
    rw [List.flatMap_cons, List.foldl_append]
    refine ih ?_
    revert h
    cases st <;> cases b <;> decide

/-- Dropping chips from a run of pairs leaves pairs, behind half a pair at most. -/
theorem drop_flatMap_pair (bits : List Bool) (k : Nat) :
    ∃ half rest : List Bool, (bits.flatMap pair).drop k = half ++ rest.flatMap pair ∧ half.length ≤ 1 := by
  induction bits generalizing k with
  | nil => exact ⟨[], [], by simp, Nat.zero_le 1⟩
  | cons b bits ih =>
    match k with
    | 0 => exact ⟨[], b :: bits, rfl, Nat.zero_le 1⟩
    | 1 => exact ⟨[b], bits, rfl, Nat.le_refl 1⟩
    | k + 2 => exact ih k

/-- The pairs of an encoded word: the start marker, the ten payload bits, the parity (R61, R92). -/
def wordBits (v : Word) : List Bool := true :: payloadBits (payload v) ++ [parityBit (payload v)]

/-- The words of a frame are pairs of chips (R91, R92). -/
theorem wordChips_eq_pairs (ws : List Word) : wordChips ws = (ws.flatMap wordBits).flatMap pair := by
  rw [List.flatMap_assoc, wordChips]
  congr 1
  funext v
  rw [chips24_wencWord]
  rfl

/-- An idle line keeps the hunt going (R121 to R126). -/
theorem hunts_foldl_idle {st : RxState} (h : st.hunts = true) (n : Nat) :
    ((List.replicate n false).foldl RxState.hunt st).hunts = true := by
  induction n generalizing st with
  | zero => exact h
  | succ n ih =>
    refine ih ?_
    revert h
    cases st <;> decide

/-- The default end pattern behind pairs of chips starts no frame (R137). -/
theorem hunts_foldl_defaultEnd {st : RxState} (h : st.betweenPairs = true) :
    ([false, false, true, true].foldl RxState.hunt st).hunts = true := by
  revert h
  cases st <;> decide

/-- Settles O19: in the pairs of the words, the end pattern and the idle line the hunt never ends. -/
theorem lateReceiverStoresNothing : Obligations.LateReceiverStoresNothing := by
  intro slots rx w k b _
  obtain ⟨half, rest, hdrop, hhalf⟩ := drop_flatMap_pair (w.flatMap wordBits) k
  have hstart : (half.foldl RxState.hunt .quiet).betweenPairs = true := by
    match half, hhalf with
    | [], _ => rfl
    | [c], _ => cases c <;> rfl
  have hunts : (((wordChips w).drop k ++ [false, false, true, true] ++ List.replicate b false).foldl
      RxState.hunt rx.begin.rxst).hunts = true := by
    rw [wordChips_eq_pairs, hdrop]
    simp only [List.foldl_append]
    exact hunts_foldl_idle (hunts_foldl_defaultEnd (betweenPairs_foldl_pairs hstart rest)) b
  rw [RxUnit.run_of_hunts slots hunts]
  exact ⟨rfl, rfl⟩

end Sys2Proof.Machine
end

section
/-!
PROOFS. The stores of the receiver, one tick at a time (R127, R128, R131 to R134), and the operation `FRX` (R120).
-/

namespace Sys2Proof.Machine

open Sys2Proof.Config (Params)

/-! ### The shift register -/

@[simp] theorem RxUnit.shiftIn_rxst (c : Chip) (rx : RxUnit) : (rx.shiftIn c).rxst = rx.rxst := rfl
@[simp] theorem RxUnit.shiftIn_rxa (c : Chip) (rx : RxUnit) : (rx.shiftIn c).rxa = rx.rxa := rfl
@[simp] theorem RxUnit.shiftIn_rxwp (c : Chip) (rx : RxUnit) : (rx.shiftIn c).rxwp = rx.rxwp := rfl
@[simp] theorem RxUnit.shiftIn_rxbuf (c : Chip) (rx : RxUnit) : (rx.shiftIn c).rxbuf = rx.rxbuf := rfl

/-- One bit shifted in: the old top bit is lost, the new bit is the lowest (R128). -/
theorem RxUnit.toNat_shiftIn_rxsr (c : Chip) (rx : RxUnit) :
    (rx.shiftIn c).rxsr.toNat = 2 * (rx.rxsr.toNat % 1024) + c.toNat := by
  have hbit := c.toNat_lt
  simp only [RxUnit.shiftIn, BitVec.toNat_append, BitVec.extractLsb'_toNat, BitVec.toNat_ofBool]
  rw [Nat.shiftRight_zero, Nat.shiftLeft_eq, Nat.mul_comm,
    ← Nat.two_pow_add_eq_or_of_lt (i := 1) hbit]

/-- The ten bits that were lowest before a shift are the payload after it (R14, R131). -/
theorem RxUnit.shiftedPayload_shiftIn (c : Chip) (rx : RxUnit) :
    (rx.shiftIn c).shiftedPayload = payload (BitVec.ofNat 16 (rx.rxsr.toNat % 1024)) := by
  have hshift := RxUnit.toNat_shiftIn_rxsr c rx
  have hbit := c.toNat_lt
  apply BitVec.eq_of_toNat_eq
  rw [toNat_payload, RxUnit.shiftedPayload, BitVec.extractLsb'_toNat, BitVec.toNat_ofNat, hshift]
  omega

/-- The bit just shifted in is the lowest (R128). -/
theorem RxUnit.getLsbD_shiftIn_rxsr (c : Chip) (rx : RxUnit) : (rx.shiftIn c).rxsr.getLsbD 0 = c := by
  rw [← BitVec.testBit_toNat, RxUnit.toNat_shiftIn_rxsr]
  cases c <;> simp [Nat.testBit_zero]

/-! ### The last bit of a word -/

/-- In `RX_BIT_B` with ten bits in the register the tick ends the word (R128, R131). -/
theorem RxUnit.tick_lastBit (slots : Nat) (c : Chip) {rx : RxUnit} (hst : rx.rxst = .bitB)
    (hnb : rx.rxnb = 10) :
    RxUnit.tick slots c rx =
      (RxUnit.wordStore slots (rx.shiftIn c), RxUnit.mismatch slots (rx.shiftIn c)) := by
  have hfull : (rx.shiftIn c).rxnb = 11 := by rw [RxUnit.shiftIn, hnb]; rfl
  simp only [RxUnit.tick, hst, RxUnit.bitSecond, if_pos hfull]

/-- The word store with room left: the payload goes to `RXWP`, and the last bit is compared with its odd parity
(R131, R132). -/
theorem RxUnit.tick_wordStore {slots : Nat} (c : Chip) {rx : RxUnit} (hst : rx.rxst = .bitB)
    (hnb : rx.rxnb = 10) (hroom : rx.rxwp < slots) :
    RxUnit.tick slots c rx =
      ({ rx.shiftIn c with
        rxst := .wsA, rxwp := rx.rxwp + 1
        rxbuf := Memory.write rx.rxbuf rx.rxwp (BitVec.ofNat 16 (rx.rxsr.toNat % 1024)) },
      c != parityBit (payload (BitVec.ofNat 16 (rx.rxsr.toNat % 1024)))) := by
  have hword : wordOfPayload (payload (BitVec.ofNat 16 (rx.rxsr.toNat % 1024))) =
      BitVec.ofNat 16 (rx.rxsr.toNat % 1024) := by
    rw [wordOfPayload_payload, BitVec.toNat_ofNat]
    congr 1
    omega
  rw [RxUnit.tick_lastBit slots c hst hnb, RxUnit.mismatch, RxUnit.wordStore, RxUnit.store,
    RxUnit.getLsbD_shiftIn_rxsr, RxUnit.shiftedPayload_shiftIn, hword]
  simp [hroom]

/-- Settles O20: the tick of the word store, with the parity bit as a count of ones. -/
theorem wordStore : Obligations.WordStore := by
  intro slots c rx hwf hst hnb hroom
  have htick := RxUnit.tick_wordStore c hst hnb hroom
  rw [parityBit_payload] at htick
  refine ⟨_, htick, ?_, RxUnit.toNat_shiftIn_rxsr c rx,
    Memory.read_write_self _ _ _ _ hwf, fun j hj => Memory.read_write_other _ _ _ _ hj⟩
  simp only [RxUnit.shiftIn, hnb]
  rfl

/-! ### The second chip of a word slot -/

/-- `01` opens a word (R127). -/
theorem RxUnit.tick_wordOpens (slots : Nat) {rx : RxUnit} (hst : rx.rxst = .wsB) (ha : rx.rxa = false) :
    RxUnit.tick slots true rx = ({ rx with rxst := .bitA, rxsr := 0, rxnb := 0 }, false) := by
  simp [RxUnit.tick, hst, RxUnit.slotSecond, ha]

/-- Any other pair ends the frame (R127). -/
theorem RxUnit.tick_frameEnds (slots : Nat) {c : Chip} {rx : RxUnit} (hst : rx.rxst = .wsB)
    (hpair : ¬(rx.rxa = false ∧ c = true)) :
    RxUnit.tick slots c rx = (RxUnit.terminatorStore slots rx, false) := by
  have hguard : ¬(!rx.rxa && c) = true := by simpa using hpair
  simp only [RxUnit.tick, hst, RxUnit.slotSecond, if_neg hguard]

/-- The terminator store with room left (R133). -/
theorem RxUnit.tick_terminatorStore {slots : Nat} {c : Chip} {rx : RxUnit} (hst : rx.rxst = .wsB)
    (hpair : ¬(rx.rxa = false ∧ c = true)) (hroom : rx.rxwp < slots) :
    RxUnit.tick slots c rx =
      ({ rx with
        rxst := .quiet, rxwp := rx.rxwp + 1
        rxbuf := Memory.write rx.rxbuf rx.rxwp terminator }, false) := by
  rw [RxUnit.tick_frameEnds slots hst hpair, RxUnit.terminatorStore, RxUnit.store, if_pos hroom]

/-- Settles O21: the two ticks the second chip of a word slot can be. -/
theorem endMarkerDetector : Obligations.EndMarkerDetector := by
  intro slots c rx hst
  refine ⟨fun ⟨ha, hc⟩ => ?_, fun hpair hroom => ?_⟩
  · subst hc
    exact RxUnit.tick_wordOpens slots hst ha
  · exact ⟨_, RxUnit.tick_terminatorStore hst hpair hroom, rfl,
      Memory.read_write_self_of_ne _ _ _ (by decide), fun j hj => Memory.read_write_other _ _ _ _ hj⟩

/-! ### The full buffer -/

/-- A store that finds the buffer full only stalls the receiver (R134). -/
theorem RxUnit.store_full {slots : Nat} (v : Word) (next : RxState) {rx : RxUnit} (h : slots ≤ rx.rxwp) :
    RxUnit.store slots v next rx = { rx with rxst := .stall } :=
  if_neg (Nat.not_lt.2 h)

/-- A receiver that is stalled or off consumes no chip (R122, R134). -/
theorem RxUnit.run_of_stopped (slots : Nat) {rx : RxUnit} (h : rx.rxst = .stall ∨ rx.rxst = .off)
    (l : List Chip) : RxUnit.run slots rx l = (rx, 0) := by
  induction l with
  | nil => rfl
  | cons c l ih =>
    have htick : RxUnit.tick slots c rx = (rx, false) := by
      rcases h with h | h <;> simp only [RxUnit.tick, h]
    rw [RxUnit.run, htick, ih]
    rfl

/-- Settles O22: both stores find no room, and a stalled receiver stays as it is. -/
theorem fullBufferStalls : Obligations.FullBufferStalls := by
  intro slots rx
  refine ⟨fun c hfull h => ?_, fun l h => RxUnit.run_of_stopped slots h l⟩
  rcases h with ⟨hst, hnb⟩ | ⟨hst, hpair⟩
  · have hmismatch : RxUnit.mismatch slots (rx.shiftIn c) = false := by
      simp [RxUnit.mismatch, Nat.not_lt.2 hfull]
    rw [RxUnit.tick_lastBit slots c hst hnb, RxUnit.wordStore, RxUnit.store_full _ _ (by exact hfull),
      hmismatch]
    exact ⟨rfl, rfl, rfl, rfl⟩
  · rw [RxUnit.tick_frameEnds slots hst hpair, RxUnit.terminatorStore, RxUnit.store_full _ _ hfull]
    exact ⟨rfl, rfl, rfl, rfl⟩

/-! ### The operation `FRX` -/

/-- Chips keep the receive buffer in canonical form, in range, and with legal values only (R43). -/
theorem RxUnit.run_keeps_bufferOk (p : Params) {rx : RxUnit} (h : rx.bufferOk p) (l : List Chip) :
    (RxUnit.run p.rxSlots rx l).1.bufferOk p := by
  induction l generalizing rx with
  | nil => exact h
  | cons c l ih => exact ih (RxUnit.tick_keeps_bufferOk p c rx h)

/-- Every mismatch counted comes with a value stored (R131, R132). -/
theorem RxUnit.run_mismatches_le (slots : Nat) (rx : RxUnit) (l : List Chip) :
    rx.rxwp + (RxUnit.run slots rx l).2 ≤ (RxUnit.run slots rx l).1.rxwp := by
  induction l generalizing rx with
  | nil => exact Nat.le_refl _
  | cons c l ih =>
    have hrest := ih (RxUnit.tick slots c rx).1
    have hbit := (RxUnit.tick slots c rx).2.toNat_lt
    simp only [RxUnit.run]
    rcases RxUnit.tick_buffer slots c rx with ⟨-, hwp, hno⟩ | ⟨-, _, -, -, hwp⟩
    · rw [hno, Bool.toNat_false]
      omega
    · omega

/-- The receiver `FRX` starts from has an empty, legal buffer (R120). -/
theorem RxUnit.fresh_bufferOk (p : Params) : RxUnit.fresh.bufferOk p :=
  ⟨rfl, Nat.zero_le _, fun _ he => absurd he List.not_mem_nil⟩

/-- Settles O13: the values are the slots below `RXWP` of a buffer that every chip kept legal. -/
theorem frxCompletes : Obligations.FrxCompletes := by
  intro l s
  have hok := RxUnit.run_keeps_bufferOk s.par (RxUnit.fresh_bufferOk s.par) l
  have hmismatches := RxUnit.run_mismatches_le s.par.rxSlots RxUnit.fresh l
  have hfresh : RxUnit.fresh.rxwp = 0 := rfl
  obtain ⟨-, hwp, -⟩ := id hok
  refine ⟨_, _, rfl, rfl, rfl, ?_, ?_, fun v hv => ?_⟩
  · rw [RxUnit.stored, Memory.length_readList]
    exact hwp
  · rw [RxUnit.stored, Memory.length_readList]
    omega
  · obtain ⟨k, -, rfl⟩ := Memory.mem_readList hv
    exact hok.read_legal _

end Sys2Proof.Machine
end

section
/-!
PROOFS. The reception of a whole frame (R127 to R136): what a chip string makes the receiver store, and how that
adds up over the parts of a frame.
-/

namespace Sys2Proof.Machine

open Sys2Proof.Config (Params)

/-! ### Buffers written value by value -/

/-- Writing two lists one behind the other. -/
theorem Memory.writeList_append {w : Nat} (vs ws : List (BitVec w)) (m : SlotMem w) (i : Nat) :
    Memory.writeList m i (vs ++ ws) = Memory.writeList (Memory.writeList m i vs) (i + vs.length) ws := by
  induction vs generalizing m i with
  | nil => rfl
  | cons v vs ih =>
    rw [List.cons_append, Memory.writeList, ih, Memory.writeList, List.length_cons, Nat.add_right_comm,
      Nat.add_assoc]

/-- In canonical form every value is read back from the range it was written to. -/
theorem Memory.read_writeList_of_wf {w : Nat} {vs : List (BitVec w)} {m : SlotMem w}
    (hwf : Memory.wf m = true) (i : Nat) {k : Nat} {v : BitVec w} (h : vs[k]? = some v) :
    Memory.read (Memory.writeList m i vs) (i + k) = v := by
  induction vs generalizing m i k with
  | nil => simp at h
  | cons x vs ih =>
    rw [Memory.writeList]
    cases k with
    | zero =>
      obtain rfl : x = v := by simpa using h
      rw [Memory.read_writeList_other _ _ _ _ (by omega)]
      exact Memory.read_write_self m 0 i x hwf
    | succ k =>
      have hk := ih (Memory.wf_write m i x hwf) (i + 1) (by simpa using h)
      rwa [Nat.add_right_comm, Nat.add_assoc] at hk

/-- In canonical form a list of values is read back from the range it was written to. -/
theorem Memory.readList_writeList {w : Nat} {vs : List (BitVec w)} {m : SlotMem w}
    (hwf : Memory.wf m = true) (i : Nat) :
    Memory.readList (Memory.writeList m i vs) i vs.length = vs := by
  refine List.ext_getElem? fun k => ?_
  by_cases hk : k < vs.length
  · have hv := List.getElem?_eq_getElem hk
    rw [Memory.getElem?_readList _ _ _ _ hk, hv, Memory.read_writeList_of_wf hwf i hv]
  · rw [List.getElem?_eq_none (by simpa using hk), List.getElem?_eq_none (by simpa using hk)]

/-! ### What a chip string makes the receiver store -/

/-- Fed `l`, the receiver becomes `u`, has stored `vs` from its `RXWP` on, and has counted no mismatch. -/
structure RxUnit.Takes (slots : Nat) (rx : RxUnit) (l : List Chip) (vs : List Word) (u : RxUnit) :
    Prop where
  run : RxUnit.run slots rx l = (u, 0)
  rxwp : u.rxwp = rx.rxwp + vs.length
  rxbuf : u.rxbuf = Memory.writeList rx.rxbuf rx.rxwp vs

/-- What two chip strings make the receiver store adds up. -/
theorem RxUnit.Takes.append {slots : Nat} {rx u t : RxUnit} {l m : List Chip} {vs ws : List Word}
    (hl : rx.Takes slots l vs u) (hm : u.Takes slots m ws t) :
    rx.Takes slots (l ++ m) (vs ++ ws) t where
  run := by rw [RxUnit.run_append, hl.run, hm.run]; rfl
  rxwp := by rw [hm.rxwp, hl.rxwp, List.length_append, Nat.add_assoc]
  rxbuf := by rw [hm.rxbuf, hl.rxbuf, hl.rxwp, Memory.writeList_append]

/-- One tick that counts no mismatch is a chip taken. -/
theorem RxUnit.takes_of_tick {slots : Nat} {c : Chip} {rx u : RxUnit} {vs : List Word}
    (h : RxUnit.tick slots c rx = (u, false)) (hwp : u.rxwp = rx.rxwp + vs.length)
    (hbuf : u.rxbuf = Memory.writeList rx.rxbuf rx.rxwp vs) : rx.Takes slots [c] vs u where
  run := by rw [RxUnit.run, h]; rfl
  rxwp := hwp
  rxbuf := hbuf

/-- A hunt that goes on stores nothing. -/
theorem RxUnit.takes_of_hunts (slots : Nat) {rx : RxUnit} {l : List Chip}
    (h : (l.foldl RxState.hunt rx.rxst).hunts = true) :
    rx.Takes slots l [] { rx with rxst := l.foldl RxState.hunt rx.rxst } :=
  ⟨RxUnit.run_of_hunts slots h, rfl, rfl⟩

/-- The header of a frame takes every hunting receiver to the first word slot (R112, R126). -/
theorem RxUnit.takes_header (slots : Nat) {rx : RxUnit} (h : rx.rxst.hunts = true) :
    rx.Takes slots frameHeader [] { rx with rxst := .wsA } := by
  have hsync : (frameHeader.dropLast.foldl RxState.hunt rx.rxst).hunts = true ∧
      frameHeader.foldl RxState.hunt rx.rxst = .wsA := by
    revert h
    cases rx.rxst <;> decide
  have hrun := RxUnit.run_concat_of_hunts slots true hsync.1
  rw [show frameHeader.dropLast ++ [true] = frameHeader from rfl, hsync.2] at hrun
  exact ⟨hrun, rfl, rfl⟩

/-! ### The bits of a word -/

/-- The receiver after shifting bits in, in order (R128). -/
def RxUnit.shiftBits (rx : RxUnit) (bits : List Bool) : RxUnit :=
  bits.foldl (fun r b => r.shiftIn b) rx

/-- Shifting touches the shift register and its count only (R128). -/
theorem RxUnit.shiftBits_frame (rx : RxUnit) (bits : List Bool) :
    (rx.shiftBits bits).rxst = rx.rxst ∧ (rx.shiftBits bits).rxwp = rx.rxwp ∧
      (rx.shiftBits bits).rxbuf = rx.rxbuf := by
  induction bits generalizing rx with
  | nil => exact ⟨rfl, rfl, rfl⟩
  | cons b bits ih => exact ih (rx.shiftIn b)

/-- `RXNB` counts the bits shifted in (R14, R128). -/
theorem RxUnit.toNat_shiftBits_rxnb (rx : RxUnit) {bits : List Bool}
    (h : rx.rxnb.toNat + bits.length ≤ 11) :
    (rx.shiftBits bits).rxnb.toNat = rx.rxnb.toNat + bits.length := by
  induction bits generalizing rx with
  | nil => rfl
  | cons b bits ih =>
    rw [List.length_cons] at h ⊢
    have hone := RxUnit.shiftIn_rxnb b rx (by omega)
    have hrest := ih (rx.shiftIn b) (by omega)
    rw [hone] at hrest
    exact hrest.trans (by omega)

/-- From an empty register up to eleven bits are read most significant first (R128). -/
theorem RxUnit.toNat_shiftBits_rxsr {rx : RxUnit} (h0 : rx.rxsr = 0) {bits : List Bool}
    (hlen : bits.length ≤ 11) : (rx.shiftBits bits).rxsr.toNat = bitsToNat bits := by
  induction bits using List.reverseRecOn with
  | nil => rw [RxUnit.shiftBits, List.foldl_nil, h0]; rfl
  | append_singleton bits b ih =>
    rw [List.length_append, List.length_singleton] at hlen
    have hlt : bitsToNat bits < 1024 :=
      Nat.lt_of_lt_of_le (bitsToNat_lt bits) (Nat.pow_le_pow_right (by decide) (by omega : _ ≤ 10))
    have hlast : rx.shiftBits (bits ++ [b]) = (rx.shiftBits bits).shiftIn b := List.foldl_concat ..
    rw [hlast, RxUnit.toNat_shiftIn_rxsr, ih (by omega), bitsToNat_append, Nat.mod_eq_of_lt hlt]

/-- The payload bits read most significant first are the payload (R42). -/
theorem bitsToNat_payloadBits (d : Payload) : bitsToNat (payloadBits d) = d.toNat := by
  have hbits : payloadBits d = ((List.range 10).map d.getLsbD).reverse := rfl
  have hd : BitVec.ofNat 10 (bitsToNat (payloadBits d)) = d := by
    apply BitVec.eq_of_getLsbD_eq
    intro i hi
    rw [BitVec.getLsbD_ofNat, decide_eq_true hi, Bool.true_and, testBit_bitsToNat _ _ hi]
    have hplace : 9 - (9 - i) = i := by omega
    simp [hbits, hi, hplace]
  have hlt : bitsToNat (payloadBits d) < 2 ^ 10 := bitsToNat_lt (payloadBits d)
  have hnat := congrArg BitVec.toNat hd
  rwa [BitVec.toNat_ofNat, Nat.mod_eq_of_lt hlt] at hnat

/-- In `RX_BIT_B` with bits of the word still to come the tick shifts one in (R128). -/
theorem RxUnit.tick_innerBit (slots : Nat) {c : Chip} {rx : RxUnit} (hst : rx.rxst = .bitB)
    (hmore : (rx.shiftIn c).rxnb ≠ 11) :
    RxUnit.tick slots c rx = ({ rx.shiftIn c with rxst := .bitA }, false) := by
  simp only [RxUnit.tick, hst, RxUnit.bitSecond, if_neg hmore]

/-- A pair in a word that lacks more than one bit shifts its second chip in (R91, R128). -/
theorem RxUnit.run_pair (slots : Nat) {rx : RxUnit} (hst : rx.rxst = .bitA) (hnb : rx.rxnb.toNat ≤ 9)
    (b : Bool) : RxUnit.run slots rx (pair b) = (rx.shiftIn b, 0) := by
  have hmore : (rx.shiftIn b).rxnb ≠ 11 := by
    intro h
    have hcount := RxUnit.shiftIn_rxnb b rx (by omega)
    rw [h] at hcount
    have : (11 : BitVec 4).toNat = 11 := rfl
    omega
  have hfirst : RxUnit.tick slots (!b) rx = ({ rx with rxst := .bitB }, false) := by
    simp only [RxUnit.tick, hst]
  have hsecond : RxUnit.tick slots b { rx with rxst := .bitB } = (rx.shiftIn b, false) := by
    rw [RxUnit.tick_innerBit (rx := { rx with rxst := .bitB }) slots rfl hmore, ← hst]
    rfl
  rw [pair, RxUnit.run, hfirst, RxUnit.run, hsecond]
  rfl

/-- Pairs within a word shift their bits in (R91, R128). -/
theorem RxUnit.run_pairs (slots : Nat) {rx : RxUnit} (hst : rx.rxst = .bitA) {bits : List Bool}
    (hnb : rx.rxnb.toNat + bits.length ≤ 10) :
    RxUnit.run slots rx (bits.flatMap pair) = (rx.shiftBits bits, 0) := by
  induction bits generalizing rx with
  | nil => rfl
  | cons b bits ih =>
    rw [List.length_cons] at hnb
    have hone := RxUnit.shiftIn_rxnb b rx (by omega)
    rw [List.flatMap_cons, RxUnit.run_append, RxUnit.run_pair slots hst (by omega) b,
      ih (rx := rx.shiftIn b) hst (by omega)]
    rfl

/-! ### One word -/

/-- The value a word leaves in the receive buffer: its low ten bits (R66, R131). -/
def lineWord (v : Word) : Word := BitVec.ofNat 16 (v.toNat % 1024)

@[simp] theorem payload_lineWord (v : Word) : payload (lineWord v) = payload v := by
  rw [lineWord, ← wordOfPayload_payload, payload_wordOfPayload]

/-- The first 23 chips of a word: its start marker, its ten payload pairs, and half of the parity pair (R92). -/
theorem take_chips24_wencWord (v : Word) :
    (chips24 (wencWord v)).take 23 =
      pair true ++ ((payloadBits (payload v)).flatMap pair ++ [!parityBit (payload v)]) := by
  rw [chips24_wencWord]
  rfl

/-- A word is its first 23 chips and its parity bit (R92). -/
theorem chips24_wencWord_eq (v : Word) :
    chips24 (wencWord v) = (chips24 (wencWord v)).take 23 ++ [parityBit (payload v)] := by
  rw [chips24_wencWord]
  rfl

/-- The receiver after the start marker of a word (R127). -/
def RxUnit.opened (rx : RxUnit) : RxUnit :=
  { rx with rxst := .bitA, rxa := false, rxsr := 0, rxnb := 0 }

/-- The start marker opens a word (R127). -/
theorem RxUnit.takes_marker (slots : Nat) {rx : RxUnit} (hst : rx.rxst = .wsA) :
    rx.Takes slots (pair true) [] rx.opened where
  run := by simp [pair, RxUnit.run, RxUnit.tick, hst, RxUnit.slotSecond, RxUnit.opened]
  rxwp := rfl
  rxbuf := rfl

/-- The ten pairs of a payload fill the shift register with it (R128). -/
theorem RxUnit.takes_payload (slots : Nat) (rx : RxUnit) (d : Payload) :
    ∃ u, rx.opened.Takes slots ((payloadBits d).flatMap pair) [] u ∧ u.rxst = .bitA ∧
      u.rxnb = 10 ∧ u.rxsr.toNat = d.toNat := by
  obtain ⟨hst, hwp, hbuf⟩ := RxUnit.shiftBits_frame rx.opened (payloadBits d)
  have hnb := RxUnit.toNat_shiftBits_rxnb rx.opened (bits := payloadBits d) (show 0 + 10 ≤ 11 by decide)
  have hsr := RxUnit.toNat_shiftBits_rxsr (rx := rx.opened) rfl (bits := payloadBits d)
    (show 10 ≤ 11 by decide)
  rw [bitsToNat_payloadBits] at hsr
  have hrun := RxUnit.run_pairs slots (rx := rx.opened) rfl (bits := payloadBits d)
    (show 0 + 10 ≤ 10 by decide)
  exact ⟨_, ⟨hrun, hwp, hbuf⟩, hst, BitVec.eq_of_toNat_eq hnb, hsr⟩

/-- The first chip of a pair changes `RXST` only (R128). -/
theorem RxUnit.takes_pairFirst (slots : Nat) {rx : RxUnit} (hst : rx.rxst = .bitA) (c : Chip) :
    rx.Takes slots [c] [] { rx with rxst := .bitB } :=
  RxUnit.takes_of_tick (by simp only [RxUnit.tick, hst]) rfl rfl

/-- All chips of a word but the last store nothing, and leave the payload in the shift register (R128). -/
theorem RxUnit.takes_wordHead (slots : Nat) {rx : RxUnit} (hst : rx.rxst = .wsA) (v : Word) :
    ∃ u, rx.Takes slots ((chips24 (wencWord v)).take 23) [] u ∧ u.rxst = .bitB ∧ u.rxnb = 10 ∧
      u.rxsr.toNat = v.toNat % 1024 := by
  obtain ⟨u, hu, hust, hnb, hsr⟩ := RxUnit.takes_payload slots rx (payload v)
  rw [toNat_payload] at hsr
  rw [take_chips24_wencWord]
  exact ⟨_, (RxUnit.takes_marker slots hst).append (hu.append (RxUnit.takes_pairFirst slots hust _)),
    rfl, hnb, hsr⟩

/-- A word with room for it is stored, and the receiver goes on to the next word slot (R131). -/
theorem RxUnit.takes_word {slots : Nat} {rx : RxUnit} (hst : rx.rxst = .wsA) (hroom : rx.rxwp < slots)
    (v : Word) : ∃ u, rx.Takes slots (chips24 (wencWord v)) [lineWord v] u ∧ u.rxst = .wsA := by
  obtain ⟨u, hu, hust, hunb, husr⟩ := RxUnit.takes_wordHead slots hst v
  have hwp : u.rxwp = rx.rxwp := hu.rxwp
  have htick := RxUnit.tick_wordStore (parityBit (payload v)) hust hunb (by rwa [hwp])
  have hword : BitVec.ofNat 16 (u.rxsr.toNat % 1024) = lineWord v := by
    rw [husr, Nat.mod_mod, lineWord]
  rw [hword, payload_lineWord, bne_self_eq_false] at htick
  rw [chips24_wencWord_eq]
  exact ⟨_, hu.append (RxUnit.takes_of_tick htick rfl rfl), rfl⟩

/-! ### The words and the end of a frame -/

/-- Words with room for them are stored one behind the other (R135). -/
theorem RxUnit.takes_words {slots : Nat} {rx : RxUnit} (hst : rx.rxst = .wsA) {ws : List Word}
    (hroom : rx.rxwp + ws.length ≤ slots) :
    ∃ u, rx.Takes slots (wordChips ws) (ws.map lineWord) u ∧ u.rxst = .wsA := by
  induction ws generalizing rx with
  | nil => exact ⟨rx, ⟨rfl, rfl, rfl⟩, hst⟩
  | cons v ws ih =>
    rw [List.length_cons] at hroom
    obtain ⟨u, hu, hust⟩ := RxUnit.takes_word (slots := slots) hst (by omega) v
    have hwp : u.rxwp = rx.rxwp + 1 := hu.rxwp
    obtain ⟨t, ht, htst⟩ := ih (rx := u) hust (by omega)
    exact ⟨t, hu.append ht, htst⟩

/-- The header and words of a frame, fed to a hunting receiver with room for the words (R135). -/
theorem RxUnit.takes_headerAndWords {slots : Nat} {rx : RxUnit} (h : rx.rxst.hunts = true)
    {ws : List Word} (hroom : rx.rxwp + ws.length ≤ slots) :
    ∃ u, rx.Takes slots (frameHeader ++ wordChips ws) (ws.map lineWord) u ∧ u.rxst = .wsA := by
  obtain ⟨u, hu, hust⟩ :=
    RxUnit.takes_words (slots := slots) (rx := { rx with rxst := .wsA }) rfl (ws := ws) hroom
  exact ⟨u, (RxUnit.takes_header slots h).append hu, hust⟩

/-- The first chip of a word slot is kept for the second (R127). -/
theorem RxUnit.takes_slotFirst (slots : Nat) {rx : RxUnit} (hst : rx.rxst = .wsA) (c : Chip) :
    rx.Takes slots [c] [] { rx with rxst := .wsB, rxa := c } :=
  RxUnit.takes_of_tick (by simp only [RxUnit.tick, hst]) rfl rfl

/-- A valid end pattern starts with a pair that ends the frame (R2, R127). -/
theorem Config.Params.valid_endPattern_cons {p : Params} (hp : p.valid = true) :
    ∃ a b, p.endPattern = a :: b :: p.endPattern.drop 2 ∧ ¬(a = false ∧ b = true) := by
  obtain ⟨hlen, -⟩ := Config.Params.valid_endPattern p hp
  have hmarker : Config.startsWithMarker p.endPattern = false := by
    simp only [Params.valid, Bool.and_eq_true, Bool.not_eq_true'] at hp
    tauto
  match h : p.endPattern with
  | [] | [_] => rw [h] at hlen; simp at hlen
  | a :: b :: _ =>
    refine ⟨a, b, rfl, ?_⟩
    rintro ⟨rfl, rfl⟩
    rw [h] at hmarker
    exact Bool.noConfusion hmarker

/-- The first two chips of the end pattern store the terminator, if there is room (R133). -/
theorem RxUnit.takes_terminator {p : Params} (hp : p.valid = true) {slots : Nat} {rx : RxUnit}
    (hst : rx.rxst = .wsA) (hroom : rx.rxwp < slots) :
    ∃ u, rx.Takes slots (p.endPattern.take 2) [terminator] u ∧ u.rxst = .quiet := by
  obtain ⟨a, b, hend, hpair⟩ := Config.Params.valid_endPattern_cons hp
  have htake : p.endPattern.take 2 = [a] ++ [b] := by rw [hend]; rfl
  have htick := RxUnit.tick_terminatorStore (rx := { rx with rxst := .wsB, rxa := a }) rfl hpair hroom
  rw [htake]
  exact ⟨_, (RxUnit.takes_slotFirst slots hst a).append (RxUnit.takes_of_tick htick rfl rfl), rfl⟩

end Sys2Proof.Machine
end

section
/-!
PROOFS. When the receiver stores the words of a frame (R135), and the frame round trip (R136).
-/

namespace Sys2Proof.Machine

open Sys2Proof.Config (Params)

/-! ### The store ticks of a frame -/

/-- The first chips of a frame: its header, some words, and `k` chips of what follows them (R110). -/
theorem take_frameChips (p : Params) {ws : List Word} {i : Nat} (hi : i ≤ ws.length) (k : Nat) :
    (frameChips p ws).take (15 + 24 * i + k) =
      frameHeader ++ wordChips (ws.take i) ++ (wordChips (ws.drop i) ++ p.endPattern).take k := by
  have hlen : (frameHeader ++ wordChips (ws.take i)).length = 15 + 24 * i := by
    simp [Nat.min_eq_left hi]
  have hsplit : wordChips ws = wordChips (ws.take i) ++ wordChips (ws.drop i) := by
    rw [← wordChips_append, List.take_append_drop]
  rw [frameChips_eq, hsplit, List.append_assoc (wordChips _), ← List.append_assoc, ← hlen,
    List.take_length_add_append]

/-- The chips up to a word (R110). -/
theorem take_frameChips_words (p : Params) {ws : List Word} {i : Nat} (hi : i ≤ ws.length) :
    (frameChips p ws).take (15 + 24 * i) = frameHeader ++ wordChips (ws.take i) := by
  simpa using take_frameChips p hi 0

/-- The chips up to the last of a word (R110). -/
theorem take_frameChips_wordHead (p : Params) {ws : List Word} {i : Nat} {v : Word}
    (hv : ws[i]? = some v) :
    (frameChips p ws).take (38 + 24 * i) =
      frameHeader ++ wordChips (ws.take i) ++ (chips24 (wencWord v)).take 23 := by
  obtain ⟨hi, rfl⟩ := List.getElem?_eq_some_iff.1 hv
  have hplace : 38 + 24 * i = 15 + 24 * i + 23 := by omega
  rw [hplace, take_frameChips p (Nat.le_of_lt hi), List.drop_eq_getElem_cons hi, wordChips_cons,
    List.append_assoc (chips24 _), List.take_append_of_le_length (by rw [length_chips24]; decide)]

/-- The first words of a frame are stored when its first `15 + 24 i` chips are consumed (R135). -/
theorem RxUnit.takes_firstWords {slots : Nat} {rx : RxUnit} (p : Params) (h : rx.rxst.hunts = true)
    {ws : List Word} {i : Nat} (hi : i ≤ ws.length) (hroom : rx.rxwp + i ≤ slots) :
    ∃ u, rx.Takes slots ((frameChips p ws).take (15 + 24 * i)) ((ws.take i).map lineWord) u ∧
      u.rxst = .wsA := by
  rw [take_frameChips_words p hi]
  exact RxUnit.takes_headerAndWords h (by rwa [List.length_take, Nat.min_eq_left hi])

/-- The chips of a word but the last store nothing (R135). -/
theorem RxUnit.takes_beforeWord {slots : Nat} {rx : RxUnit} (p : Params) (h : rx.rxst.hunts = true)
    {ws : List Word} {i : Nat} {v : Word} (hv : ws[i]? = some v) (hroom : rx.rxwp + i ≤ slots) :
    ∃ u, rx.Takes slots ((frameChips p ws).take (38 + 24 * i)) ((ws.take i).map lineWord) u := by
  obtain ⟨hi, -⟩ := List.getElem?_eq_some_iff.1 hv
  obtain ⟨u, hu, hust⟩ := RxUnit.takes_firstWords p h (Nat.le_of_lt hi) hroom
  obtain ⟨t, ht, -⟩ := RxUnit.takes_wordHead slots hust v
  have hall := hu.append ht
  rw [take_frameChips_words p (Nat.le_of_lt hi), ← take_frameChips_wordHead p hv,
    List.append_nil] at hall
  exact ⟨t, hall⟩

/-- The end pattern's first chip stores nothing, and its second stores the terminator (R135). -/
theorem RxUnit.takes_frameEnd {slots : Nat} {rx : RxUnit} {p : Params} (hp : p.valid = true)
    (h : rx.rxst.hunts = true) {ws : List Word} (hroom : rx.rxwp + ws.length + 1 ≤ slots) :
    (∃ u, rx.Takes slots ((frameChips p ws).take (16 + 24 * ws.length)) (ws.map lineWord) u) ∧
      ∃ u, rx.Takes slots ((frameChips p ws).take (17 + 24 * ws.length))
        (ws.map lineWord ++ [terminator]) u ∧ u.rxst = .quiet := by
  obtain ⟨u, hu, hust⟩ := RxUnit.takes_headerAndWords (slots := slots) h (ws := ws) (by omega)
  have hwp : u.rxwp = rx.rxwp + ws.length := by rw [hu.rxwp, List.length_map]
  have htake (k : Nat) : (frameChips p ws).take (15 + 24 * ws.length + k) =
      frameHeader ++ wordChips ws ++ p.endPattern.take k := by
    rw [take_frameChips p (Nat.le_refl _), List.take_length, List.drop_length]
    rfl
  obtain ⟨a, b, hend, -⟩ := Config.Params.valid_endPattern_cons hp
  obtain ⟨t, ht, htst⟩ := RxUnit.takes_terminator hp hust (slots := slots) (by omega)
  constructor
  · have hone := hu.append (RxUnit.takes_slotFirst slots hust a)
    have hfirst : [a] = p.endPattern.take 1 := by rw [hend]; rfl
    rw [hfirst, ← htake, List.append_nil] at hone
    exact ⟨_, by rwa [show 16 + 24 * ws.length = 15 + 24 * ws.length + 1 by omega]⟩
  · have hboth := hu.append ht
    rw [← htake] at hboth
    exact ⟨t, by rwa [show 17 + 24 * ws.length = 15 + 24 * ws.length + 2 by omega], htst⟩

/-- Settles O17: the chips up to a tick and past it differ by one value stored. -/
theorem receiverStoreTimes : Obligations.ReceiverStoreTimes := by
  intro p rx w hp hwf hhunting _ hroom
  have h := (RxUnit.hunting_iff rx).1 hhunting
  obtain ⟨⟨u, hu⟩, t, ht, htst⟩ := RxUnit.takes_frameEnd hp h hroom
  refine ⟨fun i v hv => ?_, ?_, ?_, ?_, ?_⟩
  · obtain ⟨hi, -⟩ := List.getElem?_eq_some_iff.1 hv
    obtain ⟨before, hbefore⟩ := RxUnit.takes_beforeWord (slots := p.rxSlots) p h hv (by omega)
    obtain ⟨after, hafter, -⟩ :=
      RxUnit.takes_firstWords (slots := p.rxSlots) p h (show i + 1 ≤ w.length by omega) (by omega)
    rw [show 15 + 24 * (i + 1) = 39 + 24 * i by omega] at hafter
    have hstored : ((w.take (i + 1)).map lineWord)[i]? = some (lineWord v) := by
      rw [List.getElem?_map, List.getElem?_take_of_lt (Nat.lt_succ_self i), hv]
      rfl
    rw [hbefore.run, hafter.run]
    refine ⟨?_, ?_, ?_⟩
    · rw [hbefore.rxwp, List.length_map, List.length_take, Nat.min_eq_left (by omega)]
    · rw [hafter.rxwp, List.length_map, List.length_take, Nat.min_eq_left (by omega), Nat.add_assoc]
    · rw [hafter.rxbuf]
      exact Memory.read_writeList_of_wf hwf _ hstored
  · rw [hu.run, hu.rxwp, List.length_map]
  · rw [ht.run, ht.rxwp, List.length_append, List.length_map, List.length_singleton, Nat.add_assoc]
  · rw [ht.run, ht.rxbuf]
    exact Memory.read_writeList_of_wf hwf _ (by simp)
  · rw [ht.run]
    exact htst

/-! ### The frame round trip -/

/-- The search for a pattern is the search for a run of neighbours (R2). -/
theorem Config.occursIn_iff (pat l : List Chip) : Config.occursIn pat l = true ↔ pat <:+: l := by
  induction l with
  | nil => simp [Config.occursIn]
  | cons c l ih => rw [Config.occursIn, Bool.or_eq_true, ih, List.isPrefixOf_iff_prefix, List.infix_cons_iff]

/-- Where no start group stands, the hunt goes on (R126). -/
theorem hunts_foldl_of_not_occursIn {l : List Chip} (h : Config.occursIn startGroup l = false) :
    (l.foldl RxState.hunt .quiet).hunts = true := by
  induction l using List.reverseRecOn with
  | nil => rfl
  | append_singleton l c ih =>
    rw [Bool.eq_false_iff, ne_eq, Config.occursIn_iff] at h
    have hl := ih (by
      rw [Bool.eq_false_iff, ne_eq, Config.occursIn_iff]
      exact fun hin => h (hin.trans (List.prefix_append l [c]).isInfix))
    rw [List.foldl_concat]
    refine (RxState.hunt_cases c hl).resolve_right fun hrec => ?_
    obtain ⟨x, -, hx⟩ := endsAfterLow_of_recognised (c := c) hl (by rw [List.foldl_concat, hrec])
    exact h (hx ▸ (List.suffix_append x startGroup).isInfix)

/-- A frame takes a hunting receiver with room for it to a hunting receiver, and stores its words and the
terminator, provided that the end pattern holds no start group after its second chip (R136, log entry 29). -/
theorem RxUnit.takes_frame {p : Params} (hp : p.valid = true)
    (hend : Config.occursIn startGroup (p.endPattern.drop 2) = false) {slots : Nat} {rx : RxUnit}
    (h : rx.rxst.hunts = true) {ws : List Word} (hroom : rx.rxwp + ws.length + 1 ≤ slots) :
    ∃ u, rx.Takes slots (frameChips p ws) (ws.map lineWord ++ [terminator]) u ∧
      u.rxst.hunts = true := by
  obtain ⟨u, hu, hust⟩ := RxUnit.takes_headerAndWords (slots := slots) h (ws := ws) (by omega)
  have hwp : u.rxwp = rx.rxwp + ws.length := by rw [hu.rxwp, List.length_map]
  obtain ⟨t, ht, htst⟩ := RxUnit.takes_terminator hp hust (slots := slots) (by omega)
  have htail : ((p.endPattern.drop 2).foldl RxState.hunt t.rxst).hunts = true := by
    rw [htst]
    exact hunts_foldl_of_not_occursIn hend
  have hall := hu.append (ht.append (RxUnit.takes_of_hunts slots htail))
  rw [List.take_append_drop, List.append_nil, List.append_assoc, ← frameChips_eq] at hall
  exact ⟨_, hall, htail⟩

/-- An idle line keeps a hunting receiver hunting and stores nothing. -/
theorem RxUnit.takes_idle (slots : Nat) {rx : RxUnit} (h : rx.rxst.hunts = true) (n : Nat) :
    ∃ u, rx.Takes slots (List.replicate n false) [] u ∧ u.rxst.hunts = true :=
  ⟨_, RxUnit.takes_of_hunts slots (hunts_foldl_idle h n), hunts_foldl_idle h n⟩

/-- `FRX` answers what the receiver stores (R120). -/
theorem exec_frx_of_takes {l : List Chip} {vs : List Word} {u : RxUnit} {s : State}
    (h : RxUnit.fresh.Takes s.par.rxSlots l vs u) :
    exec (.frx l) s = .next { s with
      outcome := 0
      results := s.results ++ [.ok 0x5#4 (.received vs 0)] } := by
  have hstored : u.stored = vs := by
    have hwp : u.rxwp = vs.length := h.rxwp.trans (Nat.zero_add _)
    rw [RxUnit.stored, h.rxbuf, hwp]
    exact Memory.readList_writeList rfl 0
  have hexec : exec (.frx l) s = .next (s.endOk 0x5#4 (.received
      (RxUnit.run s.par.rxSlots RxUnit.fresh l).1.stored
      (RxUnit.run s.par.rxSlots RxUnit.fresh l).2)) := rfl
  rw [hexec, h.run, hstored]
  rfl

/-- Settles O14: each frame takes the hunt to the hunt, so frames and idle lines add up. -/
theorem frameRoundTrip : Obligations.FrameRoundTrip := by
  intro s hp hend
  have hfresh : RxUnit.fresh.rxst.hunts = true := rfl
  have hempty : RxUnit.fresh.rxwp = 0 := rfl
  refine ⟨fun w a b _ hlen => ?_, fun w1 w2 b _ _ hlen => ?_⟩
  · have hslots : s.par.rxSlots = s.par.rxFrameMax + 1 := rfl
    obtain ⟨u1, h1, hu1⟩ := RxUnit.takes_idle s.par.rxSlots hfresh a
    have hwp : u1.rxwp = 0 := h1.rxwp
    obtain ⟨u2, h2, hu2⟩ := RxUnit.takes_frame hp hend hu1 (ws := w) (slots := s.par.rxSlots) (by omega)
    obtain ⟨u3, h3, -⟩ := RxUnit.takes_idle s.par.rxSlots hu2 b
    have hall := (h1.append h2).append h3
    rw [List.nil_append, List.append_nil] at hall
    exact exec_frx_of_takes hall
  · obtain ⟨u1, h1, hu1⟩ :=
      RxUnit.takes_frame hp hend hfresh (ws := w1) (slots := s.par.rxSlots) (by omega)
    have hwp : u1.rxwp = w1.length + 1 := by simpa [hempty] using h1.rxwp
    obtain ⟨u2, h2, hu2⟩ := RxUnit.takes_frame hp hend hu1 (ws := w2) (slots := s.par.rxSlots) (by omega)
    obtain ⟨u3, h3, -⟩ := RxUnit.takes_idle s.par.rxSlots hu2 b
    have hall := (h1.append h2).append h3
    rw [List.append_nil] at hall
    exact exec_frx_of_takes hall

end Sys2Proof.Machine
end

section
/-!
PROOFS. The Transaction Engine: what a poll, a teardown and a tick do, said once for the statements of this family.
-/

namespace Sys2Proof.Machine

/-! ### The poll and how it leaves `InFlight` -/

/-- A poll completes with the first slot that holds the terminator (R156). -/
theorem State.poll_of_first {s : State} {j : Nat} (hj : j < s.par.rxSlots)
    (hread : Memory.read s.rx.rxbuf j = terminator)
    (hfirst : ∀ i, i < j → Memory.read s.rx.rxbuf i ≠ terminator) : s.poll = .completed j := by
  rcases s.poll_cases with ⟨k, e, -, hk, hkfirst⟩ | ⟨hnone, -⟩
  · have hkj : k = j := by
      rcases Nat.lt_trichotomy k j with h | h | h
      · exact absurd hk (hfirst k h)
      · exact h
      · exact absurd hread (hkfirst j h)
    rw [e, hkj]
  · exact absurd hread (hnone j hj)

/-- With no terminator stored, the timer decides the poll (R156). -/
theorem State.poll_of_none {s : State}
    (h : ∀ i, i < s.par.rxSlots → Memory.read s.rx.rxbuf i ≠ terminator) :
    s.poll = if s.timeout ≤ s.timer then .timedOut else .stay := by
  rw [State.poll, (Memory.findTerminator_none _ _ _).2 fun i _ hi => h i (by omega)]

/-- The tick is a poll that leaves `InFlight` for `x` with the bytes `b` captured (R156 to R158). -/
def State.Exits (s : State) (x : TState) (b : List Byte) : Prop :=
  s.timer % s.par.pollTicks = 0 ∧
    ((∃ j, s.poll = .completed j ∧ x = .completed ∧ b = s.resultBytes j) ∨
      (s.poll = .timedOut ∧ x = .timedOut ∧ b = []))

theorem State.Exits.tst {s : State} {x : TState} {b : List Byte} (h : s.Exits x b) :
    x = .completed ∨ x = .timedOut := by
  obtain ⟨-, ⟨j, -, hx, -⟩ | ⟨-, hx, -⟩⟩ := h
  · exact .inl hx
  · exact .inr hx

/-- What an exit poll captures in a state that meets the invariant is a legal result (R157 to R159). -/
theorem State.Exits.legal {s : State} {x : TState} {b : List Byte} (h : s.Exits x b)
    (hb : s.rx.bufferOk s.par) : resultLegal s.par b := by
  obtain ⟨-, ⟨j, hj, -, rfl⟩ | ⟨-, -, rfl⟩⟩ := h
  · rcases s.poll_cases with ⟨k, e, hk, -, hfirst⟩ | ⟨-, ⟨-, e⟩ | ⟨-, e⟩⟩ <;> cases hj.symm.trans e
    exact State.resultBytes_legal hb hk hfirst
  · exact resultLegal_nil _

/-- A tick in `InFlight` is a tick of the line, unless it is a poll that exits; that one is a tick of teardown. -/
theorem inFlightTick_stays_or_exits (c : Chip) (a : Bool) (s : State) :
    ((s.timer % s.par.pollTicks = 0 → s.poll = .stay) ∧ inFlightTick c a s = lineTick c s) ∨
    ∃ x b, s.Exits x b ∧ inFlightTick c a s = teardownTick a (s.exitPoll x b) := by
  rcases inFlightTick_cases c a s with ⟨e, hstay⟩ | ⟨hp, j, hj, e⟩ | ⟨hp, ht, e⟩
  · exact .inl ⟨hstay, e⟩
  · exact .inr ⟨_, _, ⟨hp, .inl ⟨j, hj, rfl, rfl⟩⟩, e⟩
  · exact .inr ⟨_, _, ⟨hp, .inr ⟨ht, rfl, rfl⟩⟩, e⟩

/-- A tick in `InFlight` whose poll, if it is one, stays is a tick of the line (R155). -/
theorem tick_of_stay (c : Chip) (a : Bool) {s : State} (hs : s.tst = .inFlight)
    (hstay : s.timer % s.par.pollTicks = 0 → s.poll = .stay) : tick c a s = lineTick c s := by
  have htick : tick c a s = inFlightTick c a s := by rw [tick, hs]
  rcases inFlightTick_stays_or_exits c a s with ⟨-, e⟩ | ⟨x, b, ⟨hp, hx⟩, -⟩
  · exact htick.trans e
  · obtain ⟨j, hj, -⟩ | ⟨ht, -⟩ := hx
    · cases hj.symm.trans (hstay hp)
    · cases ht.symm.trans (hstay hp)

/-- A tick whose poll exits does what a tick does in the state the exit poll leaves: teardown begins in the tick of
the poll (R161). -/
theorem State.Exits.tick_eq {s : State} {x : TState} {b : List Byte} (h : s.Exits x b)
    (hs : s.tst = .inFlight) (c : Chip) (a : Bool) : tick c a s = tick c a (s.exitPoll x b) := by
  obtain ⟨hp, ⟨j, hj, rfl, rfl⟩ | ⟨ht, rfl, rfl⟩⟩ := h
  · rw [tick, hs]
    simp only [inFlightTick, hp, hj, if_true]
    rfl
  · rw [tick, hs]
    simp only [inFlightTick, hp, ht, if_true]
    rfl

/-- A tick of an armed block does what a tick does once both units are started (R154, log entry 9). -/
theorem tick_start (c : Chip) (a : Bool) {s : State} (hs : s.tst = .armed) :
    tick c a s = tick c a s.start := by
  rw [tick, hs]
  rfl

/-- A tick of teardown holds the line at 0 and waits for the acknowledge (R161). -/
theorem tick_teardown (c : Chip) (a : Bool) {s : State} (hs : s.tst = .completed ∨ s.tst = .timedOut) :
    tick c a s = teardownTick a s.quietTick := by
  rw [tick]
  rcases hs with hs | hs <;> rw [hs]

/-! ### Serving and teardown -/

/-- Serving leaves the state as it is, or arms the request held longest (R164). -/
theorem serveHeld_next {s u : State} (h : serveHeld s = .next u) :
    u = s ∨ ∃ r rest, s.held = r :: rest ∧ u = ({ s with held := rest } : State).arm r := by
  rcases serveHeld_cases s with ⟨-, e⟩ | ⟨r, rest, hcons, e⟩ <;> rw [e] at h
  · cases h
    exact .inl rfl
  · exact .inr ⟨r, rest, hcons, (armRequest_next h).2⟩

theorem serveHeld_results {s u : State} (h : serveHeld s = .next u) : u.results = s.results := by
  rcases serveHeld_next h with rfl | ⟨r, rest, -, rfl⟩ <;> rfl

theorem serveHeld_tst {s u : State} (h : serveHeld s = .next u) : u.tst = s.tst ∨ u.tst = .armed := by
  rcases serveHeld_next h with rfl | ⟨r, rest, -, rfl⟩
  · exact .inl rfl
  · exact .inr rfl

/-- Without the acknowledge teardown waits, up to `ABORT_ACK_TICKS` (R161). -/
theorem teardownTick_waits {s : State} (h : s.ackWait < s.par.abortAckTicks) :
    teardownTick false s = .next { s.ackWithheld with ackWait := s.ackWait + 1 } := by
  simp [teardownTick, h]

/-- Without the acknowledge teardown halts when the wait is over (R162). -/
theorem teardownTick_halts {s : State} (h : s.par.abortAckTicks ≤ s.ackWait) :
    teardownTick false s = .next s.ackWithheld.goFatal := by
  simp [teardownTick, Nat.not_lt.2 h]

/-- Everything a tick of teardown can answer: the result given back and `TST` `Idle` or `Armed`, a wait that goes
on, or the fatal fault (R161 to R164). -/
theorem teardownTick_next {a : Bool} {s u : State} (h : teardownTick a s = .next u) :
    ((u.tst = .idle ∨ u.tst = .armed) ∧ u.results = s.results ++
      [if s.tst = .completed then .ok 0x6#4 (.bytes s.captured) else .error 0x6#4 .receiveTimeout]) ∨
    (u.tst = s.tst ∧ u.results = s.results) ∨
    (u.tst = .halted ∧ u.results = s.results ++
      .error 0x6#4 .fatal :: s.held.map fun _ => .error 0x6#4 .fatal) := by
  rcases teardownTick_cases a s with ⟨-, e⟩ | ⟨-, -, e⟩ | ⟨-, -, e⟩ <;> rw [e] at h
  · have htst := serveHeld_tst h
    have hres := serveHeld_results h
    rw [State.giveBack_eq] at htst hres
    exact .inl ⟨htst, hres⟩
  · cases h
    exact .inr (.inl ⟨rfl, rfl⟩)
  · cases h
    exact .inr (.inr ⟨rfl, rfl⟩)

/-- No tick of teardown leads into `InFlight`. -/
theorem teardownTick_tst_ne {a : Bool} {s u : State} (hs : s.tst = .completed ∨ s.tst = .timedOut)
    (h : teardownTick a s = .next u) : u.tst ≠ .inFlight := by
  rcases teardownTick_next h with ⟨h | h, -⟩ | ⟨h, -⟩ | ⟨h, -⟩ <;> rw [h]
  · simp
  · simp
  · rcases hs with hs | hs <;> simp [hs]
  · simp

/-! ### The line in a tick -/

/-- `PERRCNT` after a tick of the receiver: the mismatch is added, up to 0xFFFF (R21, R132). -/
theorem State.countMismatch_perrcnt_eq (s : State) (b : Bool) :
    (s.countMismatch b).perrcnt = BitVec.ofNat 16 (min (s.perrcnt.toNat + b.toNat) 0xFFFF) := by
  rw [State.countMismatch_perrcnt]
  cases b
  case false =>
    have hlt := s.perrcnt.isLt
    have hmin : min (s.perrcnt.toNat + false.toNat) 0xFFFF = s.perrcnt.toNat := by
      rw [Bool.toNat_false]
      omega
    rw [hmin]
    simp
  case true => simp [← toNat_saturatingInc]

/-- The line in a tick, in a state that meets the invariant: the transmitter's tick, the receiver's chip, `TIMER` and
`PERRCNT`, and nothing else (R155). -/
theorem State.Inv.lineTick_eq {s : State} (h : s.Inv) (c : Chip) :
    ∃ t : TxUnit, TxUnit.tick s.par s.tx = .ok t ∧
      Machine.lineTick c s = .next { s with
        tx := t
        rx := (RxUnit.tick s.par.rxSlots c s.rx).1
        timer := s.timer + 1
        perrcnt := BitVec.ofNat 16
          (min (s.perrcnt.toNat + (RxUnit.tick s.par.rxSlots c s.rx).2.toNat) 0xFFFF) } := by
  obtain ⟨t, ht, -⟩ := TxUnit.tick_ok s.par s.tx h.parameters h.txPosition
  refine ⟨t, ht, ?_⟩
  rw [lineTick_ok c s t ht, ← State.countMismatch_perrcnt_eq]
  rfl

end Sys2Proof.Machine
end

section
/-!
PROOFS. Teardown with and without the acknowledge, and the results of transactions (R157 to R163).
-/

namespace Sys2Proof.Machine

/-- Settles O34: an acknowledged tick of teardown gives the outcome back and serves the requests held. -/
theorem acknowledgeEndsTeardown : Obligations.AcknowledgeEndsTeardown := by
  intro s c hs hp hheld
  obtain ⟨u, hu, hserved⟩ := serveHeld_servedFrom s.quietTick.giveBack
    (by rw [State.giveBack_eq]; exact Config.Params.valid_txCapacity _ hp)
    (by rw [State.giveBack_eq]; exact hheld)
  rw [State.giveBack_eq] at hserved
  exact ⟨u, (tick_teardown c true hs).trans hu, hserved⟩

/-- Settles O35: without the acknowledge the wait goes on, or the block halts and ends every request with `Fatal`. -/
theorem withheldAcknowledgeIsFatal : Obligations.WithheldAcknowledgeIsFatal := by
  intro s c hs
  have htick := tick_teardown c false hs
  refine ⟨fun hover => ⟨_, htick.trans (teardownTick_halts hover), ?_⟩,
    fun hwait => ⟨_, htick.trans (teardownTick_waits hwait), rfl⟩⟩
  rw [List.replicate_succ, ← List.map_const']
  rfl

end Sys2Proof.Machine
end

section
/-!
PROOFS. `TRANSACT` as it is issued, and what the acts of the host leave alone (R151 to R153, R162, R164, R165).
-/

namespace Sys2Proof.Machine

section
variable {b : List Byte} {t : Timeout} {s : State}

/-- `TRANSACT` whose operands fail a check ends with `InvalidInput` (R152). -/
theorem exec_transact_refused (h : requestOk s.par { bytes := b, deadline := Timeout.deadline t } = false) :
    exec (.transact b t) s = .next (s.raiseError 0x6#4 .invalidInput) := by
  rcases execTransact_cases b t s with ⟨-, e⟩ | ⟨hok, -⟩
  · exact e
  · cases h.symm.trans hok

/-- `TRANSACT` that passes the checks arms in `Idle` (R153), ends with `Fatal` in `Halted` (R162), and is held behind
the others in every other state (R164). -/
theorem exec_transact_accepted (h : requestOk s.par { bytes := b, deadline := Timeout.deadline t } = true) :
    (s.tst = .idle → exec (.transact b t) s = .next (s.arm { bytes := b, deadline := Timeout.deadline t })) ∧
    (s.tst = .halted → exec (.transact b t) s = .next (s.raiseError 0x6#4 .fatal)) ∧
    (s.tst ≠ .idle → s.tst ≠ .halted → exec (.transact b t) s =
      .next { s with held := s.held ++ [{ bytes := b, deadline := Timeout.deadline t }] }) := by
  rcases execTransact_cases b t s with ⟨hno, -⟩ | ⟨-, ⟨hs, e⟩ | ⟨hs, e⟩ | ⟨hni, hnh, e⟩⟩
  · cases h.symm.trans hno
  · exact ⟨fun hi => by simp [hs] at hi, fun _ => e, fun _ hn => absurd hs hn⟩
  · exact ⟨fun _ => e, fun hh => by simp [hs] at hh, fun hn => absurd hs hn⟩
  · exact ⟨fun hi => absurd hi hni, fun hh => absurd hh hnh, fun _ _ => e⟩

end

/-- Settles O28: `T` is the ceiling of a division by 5. -/
theorem timeoutConversion : Obligations.TimeoutConversion := by
  refine ⟨fun n => ?_, rfl, rfl, rfl, rfl⟩
  simp only [Timeout.deadline, ticksOfMs]
  exact ⟨by omega, fun k hk => by omega⟩

/-- Settles O26: each alternative fails a check of R152. -/
theorem transactRefusesBadOperands : Obligations.TransactRefusesBadOperands := by
  intro b t s hbad
  refine exec_transact_refused (Bool.eq_false_iff.2 fun hok => ?_)
  obtain ⟨heven, hne, hfit, hT⟩ := (requestOk_iff _ _).1 hok
  simp only at heven hne hfit hT
  omega

/-- The hypotheses of the statements on accepted requests are the checks of R152. -/
theorem requestOk_of_checks {p : Config.Params} {b : List Byte} {deadline : Nat} (heven : b.length % 2 = 0)
    (hne : b.length ≠ 0) (hfit : b.length / 2 ≤ p.txCapacity) (hT : deadline < 2 ^ p.timerBits) :
    requestOk p { bytes := b, deadline := deadline } = true :=
  (requestOk_iff _ _).2 ⟨heven, by show b.length / 2 ≠ 0; omega, hfit, hT⟩

/-- Settles O27: an accepted request is held in a busy engine and fails in a halted one. -/
theorem transactWaitsOrFails : Obligations.TransactWaitsOrFails := by
  intro b t s heven hne hfit hT
  obtain ⟨-, hhalted, hbusy⟩ := exec_transact_accepted (s := s) (requestOk_of_checks heven hne hfit hT)
  exact ⟨hbusy, hhalted⟩

/-- Settles O25: an accepted request arms in `Idle`, and `ArmedBy` says what that writes. -/
theorem transactArms : Obligations.TransactArms := by
  intro b t s heven hne hfit hcap hT hidle
  have hok := requestOk_of_checks heven hne hfit hT
  obtain ⟨harm, -, -⟩ := exec_transact_accepted (s := s) hok
  exact ⟨_, harm hidle, arm_armedBy _ s hok hcap⟩

/-! ### The acts of the host outside `Idle` -/

/-- From `s` to `u` an act of the host changed at most `PCNT`, `PERRCNT`, `OUTCOME` and the results, and put requests
behind those held, but none in `Halted`. -/
def State.Undisturbed (s u : State) : Prop :=
  ∃ more, u = { s with
    pcnt := u.pcnt, perrcnt := u.perrcnt, outcome := u.outcome, results := u.results
    held := s.held ++ more } ∧ (s.tst = .halted → more = [])

/-- With no request added, only the four registers of a codec operation differ. -/
theorem State.Undisturbed.of_frame {s u : State} (h : u = { s with
    pcnt := u.pcnt, perrcnt := u.perrcnt, outcome := u.outcome, results := u.results }) : s.Undisturbed u :=
  ⟨[], by rw [List.append_nil]; exact h, fun _ => rfl⟩

/-- Outside `Idle` no operation disturbs the engine (R162, R164, R165). -/
theorem exec_undisturbed {i : Instr} {s u : State} (hs : s.tst ≠ .idle) (h : exec i s = .next u) :
    s.Undisturbed u := by
  rcases exec_cases h with ⟨b, t, h⟩ | he
  · rcases execTransact_cases b t s with ⟨-, e⟩ | ⟨-, ⟨-, e⟩ | ⟨hidle, -⟩ | ⟨-, hnh, e⟩⟩
    · cases e.symm.trans h
      exact .of_frame rfl
    · cases e.symm.trans h
      exact .of_frame rfl
    · exact absurd hidle hs
    · cases e.symm.trans h
      exact ⟨_, rfl, fun hh => absurd hh hnh⟩
  · exact .of_frame he.frame

/-- Outside `Idle` no input but a tick or `rst` disturbs the engine (R165). -/
theorem applyInput_undisturbed {x : Input} {s u : State} (hs : s.tst ≠ .idle) (htick : ∀ c a, x ≠ .tick c a)
    (hrst : x ≠ .rst) (h : applyInput x s = .next u) : s.Undisturbed u := by
  cases x with
  | tick c a => exact absurd rfl (htick c a)
  | rst => exact absurd rfl hrst
  | request r =>
    rcases acceptRequest_cases r s with ⟨i, -, e⟩ | ⟨op, -, e⟩
    · exact exec_undisturbed hs (e.symm.trans h)
    · cases e.symm.trans h
      exact .of_frame rfl
  | readReg n => cases h; exact .of_frame rfl
  | writeReg n v => cases h; exact .of_frame rfl

/-- Settles O37: the host's acts do not disturb a transaction under way. -/
theorem noCancel : Obligations.NoCancel := by
  intro s u x rest hni hnh hin htick hrst h
  rw [step_cons (step_next s u h).1 hin] at h
  obtain ⟨more, hu, -⟩ := applyInput_undisturbed (s := { s with inputs := rest }) hni htick hrst h
  rw [hu]
  exact ⟨rfl, rfl, rfl, rfl, rfl, rfl, rfl, more, rfl⟩

/-- A tick in `Halted` only holds the line at 0 (R162). -/
theorem tick_halted (c : Chip) (a : Bool) {s : State} (hs : s.tst = .halted) :
    tick c a s = .next s.quietTick := by
  rw [tick, hs]

/-- A step from `Halted` is a quiet tick or an act of the host that disturbs nothing, unless it is `rst` (R162). -/
theorem step_halted {s u : State} (hs : s.tst = .halted) (h : step s = .next u)
    (hrst : s.inputs.head? ≠ some .rst) :
    ∃ w : State, w = { s with inputs := w.inputs, freeCount := w.freeCount } ∧
      (u = w.quietTick ∨ w.Undisturbed u) := by
  have hp := (step_next s u h).1
  rcases hin : s.inputs with _ | ⟨x, rest⟩
  · rw [step_nil hp hin, tick_halted _ _ (by exact hs)] at h
    cases h
    exact ⟨_, rfl, .inl rfl⟩
  · rw [step_cons hp hin] at h
    refine ⟨{ s with inputs := rest }, rfl, ?_⟩
    by_cases hx : ∃ c a, x = .tick c a
    · obtain ⟨c, a, rfl⟩ := hx
      exact .inl (Host.Outcome.next.inj (h.symm.trans (tick_halted (s := { s with inputs := rest }) c a hs)))
    · refine .inr (applyInput_undisturbed (by simp [hs]) (fun c a e => hx ⟨c, a, e⟩) (fun e => ?_) h)
      exact hrst (by rw [hin, e]; rfl)

/-- Settles O36: neither a quiet tick nor an act of the host leaves `Halted`. -/
theorem haltedIsSticky : Obligations.HaltedIsSticky := by
  intro s u hs h hrst
  obtain ⟨w, hw, rfl | ⟨more, hu, hmore⟩⟩ := step_halted hs h hrst
  · rw [hw]
    exact ⟨hs, rfl, rfl, rfl, fun _ => rfl⟩
  · have hnone : more = [] := hmore (by rw [hw]; exact hs)
    rw [hu, hnone, List.append_nil, hw]
    exact ⟨hs, rfl, rfl, rfl, id⟩

end Sys2Proof.Machine
end

section
/-!
PROOFS. What a step adds to the results: every result of `TRANSACT` is legal (R159).
-/

namespace Sys2Proof.Machine

open Sys2Proof.Config (Params)

/-- `u` has the results of `s` and further ones, those of `TRANSACT` among them legal (R159). -/
def State.AddsLegal (s u : State) : Prop :=
  ∃ new, u.results = s.results ++ new ∧ ∀ b, .ok 0x6#4 (.bytes b) ∈ new → resultLegal s.par b

theorem State.AddsLegal.of_results_eq {s u : State} (h : u.results = s.results) : s.AddsLegal u :=
  ⟨[], by rw [h, List.append_nil], fun _ hb => absurd hb List.not_mem_nil⟩

/-- One response that is no success of `TRANSACT` is a legal addition. -/
theorem State.AddsLegal.of_response {s u : State} {r : Response} (h : u.results = s.results ++ [r])
    (hr : ∀ v, r ≠ .ok 0x6#4 v) : s.AddsLegal u :=
  ⟨[r], h, fun _ hb => absurd (List.mem_singleton.1 hb).symm (hr _)⟩

/-- A tick of teardown gives back the captured bytes or an error, and ends held requests with errors only. -/
theorem teardownTick_addsLegal {a : Bool} {s u : State} (hc : resultLegal s.par s.captured)
    (h : teardownTick a s = .next u) : s.AddsLegal u := by
  rcases teardownTick_next h with ⟨-, e⟩ | ⟨-, e⟩ | ⟨-, e⟩
  · refine ⟨_, e, fun b hb => ?_⟩
    have hb := List.mem_singleton.1 hb
    split at hb
    · cases hb
      exact hc
    · cases hb
  · exact .of_results_eq e
  · refine ⟨_, e, fun b hb => ?_⟩
    rcases List.mem_cons.1 hb with hb | hb
    · cases hb
    · obtain ⟨-, -, hb⟩ := List.mem_map.1 hb
      cases hb

/-- A tick in `InFlight` captures a legal result before it can give one back (R157, R159). -/
theorem State.Inv.inFlightTick_addsLegal {s u : State} {c : Chip} {a : Bool} (h : s.Inv)
    (hu : Machine.inFlightTick c a s = .next u) : s.AddsLegal u := by
  rcases inFlightTick_stays_or_exits c a s with ⟨-, e⟩ | ⟨x, b, hx, e⟩ <;> rw [e] at hu
  · obtain ⟨t, -, rfl⟩ := lineTick_next hu
    exact .of_results_eq rfl
  · exact teardownTick_addsLegal (s := s.exitPoll x b) (hx.legal h.rxBuffer) hu

theorem State.Inv.tick_addsLegal {s u : State} {c : Chip} {a : Bool} (h : s.Inv)
    (hu : Machine.tick c a s = .next u) : s.AddsLegal u := by
  rcases tick_cases c a s with ⟨-, e⟩ | ⟨hs, e⟩ | ⟨-, e⟩ | ⟨-, e⟩ <;> rw [e] at hu
  · cases hu
    exact .of_results_eq rfl
  · exact (h.start hs).inFlightTick_addsLegal hu
  · exact h.inFlightTick_addsLegal hu
  · exact teardownTick_addsLegal (s := s.quietTick) h.capturedLegal hu

/-- `TRANSACT` as it is issued answers an error or nothing (R152, R162). -/
theorem execTransact_addsLegal {b : List Byte} {t : Timeout} {s u : State}
    (h : execTransact b t s = .next u) : s.AddsLegal u := by
  rcases execTransact_cases b t s with ⟨-, e⟩ | ⟨-, ⟨-, e⟩ | ⟨-, e⟩ | ⟨-, -, e⟩⟩ <;>
    cases e.symm.trans h
  · exact .of_response rfl nofun
  · exact .of_response rfl nofun
  · exact .of_results_eq rfl
  · exact .of_results_eq rfl

/-- A success bears the code of its own operation. -/
theorem Response.ok_ne_transact {op : BitVec 4} {v : OpValue} (h : op ≠ 0x6#4) (v' : OpValue) :
    Response.ok op v ≠ .ok 0x6#4 v' :=
  fun e => h (Response.ok.inj e).1

/-- A codec operation answers an error, or a success under its own code. -/
theorem exec_codec_addsLegal {i : Instr} {s u : State} (hi : isCodecOperation i = true)
    (h : exec i s = .next u) : s.AddsLegal u := by
  cases i with
  | transact b t => cases hi
  | parity v => cases h; exact .of_response rfl (Response.ok_ne_transact (by decide))
  | wenc v => cases h; exact .of_response rfl (Response.ok_ne_transact (by decide))
  | wdec c => cases h; exact .of_response rfl (Response.ok_ne_transact (by decide))
  | frx l => cases h; exact .of_response rfl (Response.ok_ne_transact (by decide))
  | tcmp ws => cases h; exact .of_response rfl (Response.ok_ne_transact (by decide))
  | ftx ws =>
    simp only [exec, execFtx] at h
    split at h <;> cases h
    · exact .of_response rfl nofun
    · exact .of_response rfl (Response.ok_ne_transact (by decide))
  | texp ws d =>
    simp only [exec, execTexp] at h
    split at h <;> cases h
    · exact .of_response rfl nofun
    · exact .of_response rfl (Response.ok_ne_transact (by decide))
  | tenc ws d =>
    simp only [exec, execTenc] at h
    split at h <;> cases h
    · exact .of_response rfl nofun
    · exact .of_response rfl (Response.ok_ne_transact (by decide))
  | tdec bs =>
    simp only [exec, execTdec] at h
    split at h <;> cases h
    · exact .of_response rfl nofun
    · exact .of_response rfl (Response.ok_ne_transact (by decide))

theorem exec_addsLegal {i : Instr} {s u : State} (h : exec i s = .next u) : s.AddsLegal u := by
  cases hi : isCodecOperation i with
  | true => exact exec_codec_addsLegal hi h
  | false =>
    cases i with
    | transact b t => exact execTransact_addsLegal h
    | _ => cases hi

theorem State.Inv.applyInput_addsLegal {s u : State} {x : Input} (h : s.Inv)
    (hu : applyInput x s = .next u) : s.AddsLegal u := by
  cases x with
  | tick c a => exact h.tick_addsLegal hu
  | request r =>
    rcases acceptRequest_cases r s with ⟨i, -, e⟩ | ⟨op, -, e⟩
    · exact exec_addsLegal (e.symm.trans hu)
    · cases e.symm.trans hu
      exact .of_response rfl nofun
  | readReg n => cases hu; exact .of_response rfl nofun
  | writeReg n v => cases hu; exact .of_results_eq rfl
  | rst => cases hu; exact .of_results_eq rfl

/-- Every step adds only legal results of `TRANSACT`, or none (R159). -/
theorem State.Inv.step_addsLegal {s u : State} (h : s.Inv) (hu : step s = .next u) : s.AddsLegal u := by
  rcases hin : s.inputs with _ | ⟨x, rest⟩
  · have hnil : ({ s with freeCount := s.freeCount + 1 } : State).Inv :=
      h.of_frame rfl h.pcntRange h.outcomeKnown
    rw [step_nil h.parameters hin] at hu
    exact hnil.tick_addsLegal hu
  · have hrest : ({ s with inputs := rest } : State).Inv :=
      h.of_frame rfl h.pcntRange h.outcomeKnown
    rw [step_cons h.parameters hin] at hu
    exact hrest.applyInput_addsLegal hu

/-- A legal result holds no terminator: 0xFFFF is above 0x03FF. -/
theorem resultLegal.terminator_notMem {p : Params} {b : List Byte} (h : resultLegal p b) :
    terminator ∉ wordsOfBytes b := by
  obtain ⟨-, -, hwords⟩ := h
  intro hmem
  exact absurd (hwords _ hmem) (by decide)

/-- Settles O57: the results a step adds stand behind the old ones, and each frame among them is legal. -/
theorem returnedFramesAreLegal : Obligations.ReturnedFramesAreLegal := by
  intro s u h hstep
  obtain ⟨new, hnew, hlegal⟩ := h.step_addsLegal hstep
  refine ⟨⟨new, hnew.symm⟩, fun b hb => ?_⟩
  rw [hnew, List.drop_left] at hb
  exact ⟨hlegal b hb, (hlegal b hb).terminator_notMem⟩

end Sys2Proof.Machine
end

section
/-!
PROOFS. `InFlight` ends by the last poll (R156, R163).
-/

namespace Sys2Proof.Machine

/-! ### Several steps -/

/-- A run of several steps takes the first one, then the others. -/
theorem core_run_succ {s u : State} (h : step s = .next u) (n : Nat) :
    core.run (n + 1) s = core.run n u := by
  have hstep : core.step s = .next u := h
  simp only [Host.Core.run, hstep]

/-- A run of several steps that answers a next state has one after its first step. -/
theorem core_run_succ_next {s u : State} {n : Nat} (h : core.run (n + 1) s = .next u) :
    ∃ w, step s = .next w := by
  cases hs : core.step s with
  | next w => exact ⟨w, hs⟩
  | fault f => simp [Host.Core.run, hs] at h
  | refused r => simp [Host.Core.run, hs] at h

/-- A run goes on from where its first steps lead. -/
theorem core_run_add {s u : State} {m : Nat} (h : core.run m s = .next u) (n : Nat) :
    core.run (m + n) s = core.run n u := by
  induction m generalizing s with
  | zero =>
    cases h
    rw [Nat.zero_add]
  | succ m ih =>
    obtain ⟨w, hw⟩ := core_run_succ_next h
    rw [core_run_succ hw] at h
    rw [Nat.succ_add, core_run_succ hw, ih h]

/-- States whose next step is the same run the same, from one step on. -/
theorem core_run_succ_congr {s w : State} (h : step s = step w) (n : Nat) :
    core.run (n + 1) s = core.run (n + 1) w := by
  have hstep : core.step s = core.step w := h
  simp only [Host.Core.run, hstep]

/-! ### The last poll -/

/-- A tick listed next is the next step. -/
theorem step_tick {s : State} {c : Chip} {a : Bool} {rest : List Input} (hp : s.par.valid = true)
    (hin : s.inputs = .tick c a :: rest) : step s = tick c a { s with inputs := rest } :=
  step_cons hp hin

/-- A tick in `InFlight` leaves it, or goes on with `TIMER` one higher, and the deadline, the parameters and the
inputs as they were. -/
theorem tick_inFlight_next {c : Chip} {a : Bool} {s u : State} (hs : s.tst = .inFlight)
    (h : tick c a s = .next u) :
    u.tst ≠ .inFlight ∨
      (u.tst = .inFlight ∧ u.timer = s.timer + 1 ∧ u.timeout = s.timeout ∧ u.par = s.par ∧
        u.inputs = s.inputs) := by
  rw [tick, hs] at h
  rcases inFlightTick_stays_or_exits c a s with ⟨-, e⟩ | ⟨x, b, hx, e⟩ <;> rw [e] at h
  · obtain ⟨t, -, rfl⟩ := lineTick_next h
    exact .inr ⟨hs, rfl, rfl, rfl, rfl⟩
  · exact .inl (teardownTick_tst_ne (s := s.exitPoll x b) hx.tst h)

/-- The same of the step that takes the tick. -/
theorem step_inFlight_next {c : Chip} {a : Bool} {s u : State} {rest : List Input} (hs : s.tst = .inFlight)
    (hp : s.par.valid = true) (hin : s.inputs = .tick c a :: rest) (h : step s = .next u) :
    u.tst ≠ .inFlight ∨
      (u.tst = .inFlight ∧ u.timer = s.timer + 1 ∧ u.timeout = s.timeout ∧ u.par = s.par ∧
        u.inputs = rest) :=
  tick_inFlight_next (s := { s with inputs := rest }) hs ((step_tick hp hin).symm.trans h)

/-- Given ticks enough, a block in `InFlight` leaves it within the ticks up to its last poll: each tick that stays
brings `TIMER` one closer to that poll, which it cannot pass. -/
theorem State.Inv.leaves_inFlight {s : State} (h : s.Inv) (hs : s.tst = .inFlight)
    {ts : List (Chip × Bool)} (hlen : ts.length = lastPoll s.par s.timeout - s.timer + 1)
    (hts : ts.map (fun x => Input.tick x.1 x.2) <+: s.inputs) :
    ∃ (k : Nat) (u : State), k ≤ ts.length ∧ core.run k s = .next u ∧ u.tst ≠ .inFlight := by
  induction ts generalizing s with
  | nil => simp at hlen
  | cons x ts ih =>
    obtain ⟨rest, hrest⟩ := hts
    obtain ⟨u, hu⟩ := h.step_completes
    have hinv := stepKeepsInvariant s u h hu
    rcases step_inFlight_next hs h.parameters hrest.symm hu with hout | ⟨hus, htimer, htimeout, hpar, hinputs⟩
    · exact ⟨1, u, by simp, core_run_succ hu 0, hout⟩
    · have hbound := hinv.timerBound hus
      rw [htimer, htimeout, hpar] at hbound
      have hlen' : ts.length = lastPoll u.par u.timeout - u.timer + 1 := by
        rw [htimer, htimeout, hpar]
        simp only [List.length_cons] at hlen hbound ⊢
        omega
      obtain ⟨k, v, hk, hrun, hv⟩ := ih hinv hus hlen' ⟨rest, hinputs.symm⟩
      exact ⟨k + 1, v, by simpa using hk, (core_run_succ hu k).trans hrun, hv⟩

/-- Settles O39: the last poll is bounded by arithmetic, and the ticks up to it lead out of `InFlight`. -/
theorem inFlightEndsInTime : Obligations.InFlightEndsInTime := by
  intro s h hs hticks
  obtain ⟨ts, hlen, hts⟩ := hticks
  obtain ⟨-, -, hlast⟩ := lastPoll_bounds s.par s.timeout (Config.Params.valid_pollTicks _ h.parameters)
  exact ⟨hlast, hlen ▸ h.leaves_inFlight hs hlen hts⟩

end Sys2Proof.Machine
end

section
/-!
PROOFS. `TRANSACT` stepped tick by tick against the function form (R166): the polls, the receiver of a transaction
beside that of `FRX`, the ticks in `InFlight`, and teardown.
-/

namespace Sys2Proof.Machine

open Sys2Proof.Config (Params)

/-! ### The exit poll of the function form -/

/-- The search for the exit poll stops at the first poll that exits, when there is one within its reach. -/
theorem exitPollFrom_spec {p : Params} {line : Nat → Chip} {deadline : Nat} (fuel k : Nat)
    (h : pollExits p line deadline (k + fuel) = true) :
    pollExits p line deadline (exitPollFrom p line deadline fuel k) = true ∧
      ∀ j, k ≤ j → j < exitPollFrom p line deadline fuel k → pollExits p line deadline j = false := by
  induction fuel generalizing k with
  | zero => exact ⟨h, fun j hk hj => absurd hj (Nat.not_lt.2 hk)⟩
  | succ fuel ih =>
    rw [exitPollFrom]
    by_cases hk : pollExits p line deadline k = true
    · rw [if_pos hk]
      exact ⟨hk, fun j hkj hj => absurd hj (Nat.not_lt.2 hkj)⟩
    · rw [if_neg hk]
      obtain ⟨hexit, hbefore⟩ := ih (k + 1) (by rwa [Nat.add_right_comm, Nat.add_assoc])
      refine ⟨hexit, fun j hkj hj => ?_⟩
      rcases Nat.eq_or_lt_of_le hkj with rfl | hkj
      · exact Bool.eq_false_iff.2 hk
      · exact hbefore j hkj hj

/-- The poll at `t_exit` exits, and no poll before it does: poll number `T` is not before tick `T` (R156). -/
theorem exitPollIndex_spec {p : Params} (hp : p.valid = true) (line : Nat → Chip) (deadline : Nat) :
    pollExits p line deadline (exitPollIndex p line deadline) = true ∧
      ∀ j, j < exitPollIndex p line deadline → pollExits p line deadline j = false := by
  have hlast : pollExits p line deadline (0 + deadline) = true := by
    have := Nat.le_mul_of_pos_right deadline (Config.Params.valid_pollTicks p hp)
    simp [pollExits, this]
  obtain ⟨hexit, hbefore⟩ := exitPollFrom_spec deadline 0 hlast
  exact ⟨hexit, fun j hj => hbefore j (Nat.zero_le _) hj⟩

/-- With no terminator stored at `t_exit`, the deadline has passed there (R156, R158). -/
theorem deadline_le_exitTick {p : Params} (hp : p.valid = true) {line : Nat → Chip} {deadline : Nat}
    (h : terminatorAt p line (exitTick p line deadline) = none) : deadline ≤ exitTick p line deadline := by
  obtain ⟨hexit, -⟩ := exitPollIndex_spec hp line deadline
  rw [exitTick] at h ⊢
  simpa [pollExits, h] using hexit

/-- A poll tick before `t_exit` does not exit. -/
theorem pollExits_before_exitTick {p : Params} (hp : p.valid = true) {line : Nat → Chip} {deadline t : Nat}
    (ht : t < exitTick p line deadline) (hpoll : t % p.pollTicks = 0) :
    pollExits p line deadline (t / p.pollTicks) = false := by
  have ht' : t / p.pollTicks * p.pollTicks = t := Nat.div_mul_cancel (Nat.dvd_of_mod_eq_zero hpoll)
  refine (exitPollIndex_spec hp line deadline).2 _ (Nat.lt_of_mul_lt_mul_right (a := p.pollTicks) ?_)
  rw [ht']
  exact ht

/-! ### The receiver of a transaction and the receiver of `FRX` -/

/-- Two receivers that differ at most in `RXA`, and not even there while it is still to be read (R14, R127). -/
def RxUnit.Alike (rx ry : RxUnit) : Prop :=
  rx = ry ∨ (ry.rxst ≠ .wsB ∧ ∃ a, rx = { ry with rxa := a })

theorem RxUnit.Alike.rxbuf {rx ry : RxUnit} (h : rx.Alike ry) : rx.rxbuf = ry.rxbuf := by
  obtain rfl | ⟨-, a, rfl⟩ := h <;> rfl

/-- Storing does not look at `RXA`. -/
theorem RxUnit.store_with_rxa (slots : Nat) (v : Word) (next : RxState) (rx : RxUnit) (a : Chip) :
    RxUnit.store slots v next { rx with rxa := a } = { RxUnit.store slots v next rx with rxa := a } := by
  unfold RxUnit.store
  split <;> rfl

theorem RxUnit.bitSecond_with_rxa (slots : Nat) (c : Chip) (rx : RxUnit) (a : Chip) :
    RxUnit.bitSecond slots c { rx with rxa := a } =
      ({ (RxUnit.bitSecond slots c rx).1 with rxa := a }, (RxUnit.bitSecond slots c rx).2) := by
  by_cases h : (RxUnit.shiftIn c rx).rxnb = 11
  · have ha : (RxUnit.shiftIn c { rx with rxa := a }).rxnb = 11 := h
    simp only [RxUnit.bitSecond, h, ha, if_true]
    exact Prod.ext (RxUnit.store_with_rxa slots _ _ (RxUnit.shiftIn c rx) a) rfl
  · have ha : ¬(RxUnit.shiftIn c { rx with rxa := a }).rxnb = 11 := h
    simp only [RxUnit.bitSecond, h, ha, if_false]
    rfl

/-- A tick outside the word slot does not look at `RXA` and does not write it. -/
theorem RxUnit.tick_with_rxa (slots : Nat) (c : Chip) {rx : RxUnit} (hA : rx.rxst ≠ .wsA)
    (hB : rx.rxst ≠ .wsB) (a : Chip) :
    RxUnit.tick slots c { rx with rxa := a } =
      ({ (RxUnit.tick slots c rx).1 with rxa := a }, (RxUnit.tick slots c rx).2) := by
  obtain ⟨st, sr, nb, a0, wp, buf⟩ := rx
  cases st
  case wsA => exact absurd rfl hA
  case wsB => exact absurd rfl hB
  case bitB => exact RxUnit.bitSecond_with_rxa slots c _ a
  all_goals cases c <;> rfl

/-- `RX_WS_B` is entered from `RX_WS_A` only (R127). -/
theorem RxUnit.tick_rxst_ne_wsB (slots : Nat) (c : Chip) {rx : RxUnit} (hA : rx.rxst ≠ .wsA) :
    (RxUnit.tick slots c rx).1.rxst ≠ .wsB := by
  obtain ⟨st, sr, nb, a0, wp, buf⟩ := rx
  have hstore (v : Word) (next : RxState) (ry : RxUnit) (hnext : next ≠ .wsB) :
      (RxUnit.store slots v next ry).rxst ≠ .wsB := by
    rcases RxUnit.store_cases slots v next ry with ⟨-, e⟩ | ⟨-, e⟩ <;> rw [e]
    · exact hnext
    · simp
  cases st
  case wsA => exact absurd rfl hA
  case wsB =>
    simp only [RxUnit.tick, RxUnit.slotSecond]
    split
    · simp
    · exact hstore _ _ _ (by simp)
  case bitB =>
    simp only [RxUnit.tick, RxUnit.bitSecond]
    split
    · exact hstore _ _ _ (by simp)
    · simp
  all_goals cases c <;> exact nofun

/-- Alike receivers count the same mismatches and stay alike (R127, R128). -/
theorem RxUnit.tick_alike (slots : Nat) (c : Chip) {rx ry : RxUnit} (h : rx.Alike ry) :
    (RxUnit.tick slots c rx).1.Alike (RxUnit.tick slots c ry).1 ∧
      (RxUnit.tick slots c rx).2 = (RxUnit.tick slots c ry).2 := by
  obtain rfl | ⟨hB, a, rfl⟩ := h
  · exact ⟨.inl rfl, rfl⟩
  by_cases hA : ry.rxst = .wsA
  · have htick : RxUnit.tick slots c { ry with rxa := a } = RxUnit.tick slots c ry := by
      simp only [RxUnit.tick, hA]
    rw [htick]
    exact ⟨.inl rfl, rfl⟩
  · rw [RxUnit.tick_with_rxa slots c hA hB]
    exact ⟨.inr ⟨RxUnit.tick_rxst_ne_wsB slots c hA, a, rfl⟩, rfl⟩

/-- One chip more for the receiver of the function form (R48, R166). -/
theorem rxAfter_succ (p : Params) (line : Nat → Chip) (t : Nat) :
    rxAfter p line (t + 1) =
      ((RxUnit.tick p.rxSlots (line t) (rxAfter p line t).1).1,
        (rxAfter p line t).2 + (RxUnit.tick p.rxSlots (line t) (rxAfter p line t).1).2.toNat) := by
  rw [rxAfter, List.range_succ, List.map_append, RxUnit.run_append]
  rfl

/-! ### The mismatch counter -/

theorem saturatingAdd_eq (c : BitVec 16) (n : Nat) :
    saturatingAdd c n = BitVec.ofNat 16 (min (c.toNat + n) 0xFFFF) := by
  unfold saturatingAdd
  split
  · rw [Nat.min_eq_left (by assumption)]
  · rw [Nat.min_eq_right (by omega)]

@[simp] theorem saturatingAdd_zero (c : BitVec 16) : saturatingAdd c 0 = c := by
  have := c.isLt
  rw [saturatingAdd_eq, Nat.min_eq_left (by omega)]
  simp

/-- Mismatches counted in two portions saturate as those counted in one (R21, R166). -/
theorem saturatingAdd_add (c : BitVec 16) (m n : Nat) :
    saturatingAdd c (m + n) = BitVec.ofNat 16 (min ((saturatingAdd c m).toNat + n) 0xFFFF) := by
  have hm : (saturatingAdd c m).toNat = min (c.toNat + m) 0xFFFF := by
    rw [saturatingAdd_eq, BitVec.toNat_ofNat]
    omega
  rw [saturatingAdd_eq, hm]
  congr 1
  omega

/-! ### The ticks in `InFlight` -/

/-- The block `w`, started in `InFlight`, after the first `t` chips of the line, with its units `tx` and `rx`. -/
def State.inFlightAt (w : State) (line : Nat → Chip) (t : Nat) (tx : TxUnit) (rx : RxUnit) : State :=
  { w with
    tx := tx, rx := rx, timer := t, inputs := w.inputs.drop t
    perrcnt := saturatingAdd w.perrcnt (rxAfter w.par line t).2 }

/-- What holds of the block after `t` chips: the invariant, and a receiver alike to that of the function form. -/
structure State.FlightAt (w : State) (line : Nat → Chip) (t : Nat) (tx : TxUnit) (rx : RxUnit) : Prop where
  inv : (w.inFlightAt line t tx rx).Inv
  receiver : rx.Alike (rxAfter w.par line t).1

section
variable {w : State} {line : Nat → Chip} {t : Nat} {tx : TxUnit} {rx : RxUnit}

/-- A poll finds the terminator the function form finds (R156, R166). -/
theorem State.FlightAt.poll_of_some {j : Nat} (h : w.FlightAt line t tx rx)
    (hj : terminatorAt w.par line t = some j) : (w.inFlightAt line t tx rx).poll = .completed j := by
  have hfind : Memory.findTerminator rx.rxbuf 0 w.par.rxSlots = some j := by rwa [h.receiver.rxbuf]
  simp only [State.poll, State.inFlightAt, hfind]

theorem State.FlightAt.poll_of_none (h : w.FlightAt line t tx rx)
    (hnone : terminatorAt w.par line t = none) :
    (w.inFlightAt line t tx rx).poll = if w.timeout ≤ t then .timedOut else .stay := by
  have hfind : Memory.findTerminator rx.rxbuf 0 w.par.rxSlots = none := by rwa [h.receiver.rxbuf]
  simp only [State.poll, State.inFlightAt, hfind]
  rfl

/-- Before `t_exit` no poll leaves `InFlight` (R156). -/
theorem State.FlightAt.stays (h : w.FlightAt line t tx rx) (ht : t < exitTick w.par line w.timeout)
    (hpoll : t % w.par.pollTicks = 0) : (w.inFlightAt line t tx rx).poll = .stay := by
  have hno := pollExits_before_exitTick h.inv.parameters ht hpoll
  rw [pollExits, show (w.inFlightAt line t tx rx).par = w.par from rfl,
    Nat.div_mul_cancel (Nat.dvd_of_mod_eq_zero hpoll)] at hno
  obtain ⟨hterm, hdeadline⟩ : terminatorAt w.par line t = none ∧ t < w.timeout := by simpa using hno
  rw [h.poll_of_none hterm, if_neg (Nat.not_le.2 hdeadline)]

/-- A tick before `t_exit` takes the block one chip further (R155). -/
theorem State.FlightAt.step {a : Bool} (h : w.FlightAt line t tx rx) (hw : w.tst = .inFlight)
    (ht : t < exitTick w.par line w.timeout) (hin : w.inputs[t]? = some (.tick (line t) a)) :
    ∃ tx' rx', Machine.step (w.inFlightAt line t tx rx) = .next (w.inFlightAt line (t + 1) tx' rx') ∧
      w.FlightAt line (t + 1) tx' rx' := by
  have hinputs : (w.inFlightAt line t tx rx).inputs = .tick (line t) a :: w.inputs.drop (t + 1) := by
    obtain ⟨hlt, hget⟩ := List.getElem?_eq_some_iff.1 hin
    exact hget ▸ List.drop_eq_getElem_cons hlt
  have hrest : ({ w.inFlightAt line t tx rx with inputs := w.inputs.drop (t + 1) } : State).Inv :=
    h.inv.of_frame rfl h.inv.pcntRange h.inv.outcomeKnown
  have hpolled := tick_of_stay (line t) a
    (s := { w.inFlightAt line t tx rx with inputs := w.inputs.drop (t + 1) }) hw (h.stays ht)
  obtain ⟨tx', -, hline⟩ := hrest.lineTick_eq (line t)
  obtain ⟨halike, hcount⟩ := RxUnit.tick_alike w.par.rxSlots (line t) h.receiver
  have hstep : Machine.step (w.inFlightAt line t tx rx) = .next
      (w.inFlightAt line (t + 1) tx' (RxUnit.tick w.par.rxSlots (line t) rx).1) := by
    rw [step_tick h.inv.parameters hinputs, hpolled, hline]
    simp only [State.inFlightAt, rxAfter_succ, saturatingAdd_add, hcount]
  refine ⟨_, _, hstep, stepKeepsInvariant _ _ h.inv hstep, ?_⟩
  rw [rxAfter_succ]
  exact halike

/-- The ticks up to `t_exit` take the block from its start to the exit poll (R155, R156). -/
theorem State.FlightAt.run {a : Bool} (h : w.FlightAt line 0 tx rx) (hw : w.tst = .inFlight)
    (hin : ∀ i, i < exitTick w.par line w.timeout → w.inputs[i]? = some (.tick (line i) a))
    (ht : t ≤ exitTick w.par line w.timeout) :
    ∃ tx' rx', core.run t (w.inFlightAt line 0 tx rx) = .next (w.inFlightAt line t tx' rx') ∧
      w.FlightAt line t tx' rx' := by
  induction t with
  | zero => exact ⟨tx, rx, rfl, h⟩
  | succ t ih =>
    obtain ⟨txt, rxt, hrun, hat⟩ := ih (Nat.le_of_succ_le ht)
    obtain ⟨tx', rx', hstep, hat'⟩ := hat.step hw ht (hin t ht)
    exact ⟨tx', rx', (core_run_add hrun 1).trans (core_run_succ hstep 0), hat'⟩

end

/-! ### The exit poll and teardown -/

/-- The response of a transaction whose exit poll led to `x` with the bytes `b`, when the acknowledge is given or not
(R157, R158, R162). -/
def exitResponse (a : Bool) (x : TState) (b : List Byte) : Response :=
  if a then (if x = .completed then .ok 0x6#4 (.bytes b) else .error 0x6#4 .receiveTimeout)
  else .error 0x6#4 .fatal

/-- The function form answers the words before the first terminator when there is one at `t_exit` (R157, R166). -/
theorem transactFunction_of_some {p : Params} {bytes : List Byte} {timeout : Timeout} {line : Nat → Chip}
    (hok : requestOk p { bytes := bytes, deadline := Timeout.deadline timeout } = true) {j : Nat}
    (hj : terminatorAt p line (exitTick p line (Timeout.deadline timeout)) = some j) (a : Bool) :
    transactFunction p bytes timeout line a = exitResponse a .completed (tbytes (Memory.readList
      (rxAfter p line (exitTick p line (Timeout.deadline timeout))).1.rxbuf 0 j)) := by
  cases a <;> simp [transactFunction, exitResponse, hok, hj]

/-- The function form times out when there is none (R158, R166). -/
theorem transactFunction_of_none {p : Params} {bytes : List Byte} {timeout : Timeout} {line : Nat → Chip}
    (hok : requestOk p { bytes := bytes, deadline := Timeout.deadline timeout } = true)
    (hnone : terminatorAt p line (exitTick p line (Timeout.deadline timeout)) = none) (a : Bool) :
    transactFunction p bytes timeout line a = exitResponse a .timedOut [] := by
  cases a <;> simp [transactFunction, exitResponse, hok, hnone]

/-- The poll at `t_exit` exits, with the response of the function form (R156, R166). -/
theorem State.FlightAt.exits {w : State} {line : Nat → Chip} {last : Nat} {tx : TxUnit} {rx : RxUnit}
    {bytes : List Byte} {timeout : Timeout} (h : w.FlightAt line last tx rx)
    (hlast : last = exitTick w.par line (Timeout.deadline timeout)) (hT : w.timeout = Timeout.deadline timeout)
    (hok : requestOk w.par { bytes := bytes, deadline := Timeout.deadline timeout } = true) (a : Bool) :
    ∃ x b, (w.inFlightAt line last tx rx).Exits x b ∧
      exitResponse a x b = transactFunction w.par bytes timeout line a := by
  have hpoll : last % w.par.pollTicks = 0 := hlast ▸ Nat.mul_mod_left _ _
  cases hterm : terminatorAt w.par line last with
  | some j =>
    refine ⟨_, _, ⟨hpoll, .inl ⟨j, h.poll_of_some hterm, rfl, rfl⟩⟩, ?_⟩
    rw [transactFunction_of_some hok (hlast ▸ hterm), ← hlast, ← h.receiver.rxbuf]
    rfl
  | none =>
    have hdeadline : w.timeout ≤ last :=
      hT ▸ hlast ▸ deadline_le_exitTick (p := w.par) h.inv.parameters (hlast ▸ hterm)
    have htimedOut := h.poll_of_none hterm
    rw [if_pos hdeadline] at htimedOut
    exact ⟨_, _, ⟨hpoll, .inr ⟨htimedOut, rfl, rfl⟩⟩,
      (transactFunction_of_none hok (hlast ▸ hterm) a).symm⟩

/-- A step that takes the tick of an exit poll does what it does in the state the poll leaves (R161). -/
theorem State.Exits.step_eq {s : State} {x : TState} {b : List Byte} {c : Chip} {a : Bool} {rest : List Input}
    (h : s.Exits x b) (hs : s.tst = .inFlight) (hp : s.par.valid = true)
    (hin : s.inputs = .tick c a :: rest) : step s = step (s.exitPoll x b) := by
  have hexits : State.Exits { s with inputs := rest } x b := h
  rw [step_tick hp hin, step_tick (s := s.exitPoll x b) hp hin, hexits.tick_eq hs]
  rfl

/-- The step that takes the first tick of an armed block does what it does with both units started (R154). -/
theorem step_start {s : State} {c : Chip} {a : Bool} {rest : List Input} (hs : s.tst = .armed)
    (hp : s.par.valid = true) (hin : s.inputs = .tick c a :: rest) : step s = step s.start := by
  rw [step_tick hp hin, step_tick (s := s.start) hp hin, tick_start (s := { s with inputs := rest }) _ _ hs]
  rfl

/-- How a transaction ends when nothing is held, from its teardown `s` to `u`: with the response of the poll and
`Idle`, or, without the acknowledge, halted; the line is at 0, and `TIMER` and `PERRCNT` are as they were. -/
structure State.EndsAs (s : State) (a : Bool) (rest : List Input) (u : State) : Prop where
  results : u.results = s.results ++ [exitResponse a s.tst s.captured]
  tst : u.tst = if a then .idle else .halted
  timer : u.timer = s.timer
  perrcnt : u.perrcnt = s.perrcnt
  inputs : u.inputs = rest
  lineOut : u.tx.lineOut = false

/-- The acknowledge ends a teardown in one step (R161, R163). -/
theorem teardown_ends_acknowledged {s : State} {c : Chip} {rest : List Input}
    (hs : s.tst = .completed ∨ s.tst = .timedOut) (hp : s.par.valid = true) (hheld : s.held = [])
    (hin : s.inputs = .tick c true :: rest) : ∃ u, step s = .next u ∧ s.EndsAs true rest u := by
  obtain ⟨u, hu, hserved⟩ := acknowledgeEndsTeardown { s with inputs := rest } c hs hp (by simp [hheld])
  simp only [ServedFrom, hheld] at hserved
  subst hserved
  exact ⟨_, (step_tick hp hin).trans hu, rfl, rfl, rfl, rfl, rfl, rfl⟩

/-- A step that takes a tick in teardown is a tick of teardown (R161). -/
theorem step_teardown {s : State} {c : Chip} {a : Bool} {rest : List Input}
    (hs : s.tst = .completed ∨ s.tst = .timedOut) (hp : s.par.valid = true) (hin : s.inputs = .tick c a :: rest) :
    step s = teardownTick a (State.quietTick { s with inputs := rest }) :=
  (step_tick hp hin).trans (tick_teardown (s := { s with inputs := rest }) c a hs)

/-- The teardown `s` one tick without the acknowledge further, with the inputs `rest` still to come (R161). -/
def State.waited (s : State) (rest : List Input) : State :=
  { State.ackWithheld (State.quietTick { s with inputs := rest }) with ackWait := s.ackWait + 1 }

theorem step_eq_waited {s : State} {c : Chip} {rest : List Input} (hs : s.tst = .completed ∨ s.tst = .timedOut)
    (hp : s.par.valid = true) (hwait : s.ackWait < s.par.abortAckTicks)
    (hin : s.inputs = .tick c false :: rest) : step s = .next (s.waited rest) :=
  (step_teardown hs hp hin).trans (teardownTick_waits (s := State.quietTick { s with inputs := rest }) hwait)

/-- The wait of a teardown that is over halts it (R162). -/
theorem step_eq_goFatal {s : State} {c : Chip} {rest : List Input} (hs : s.tst = .completed ∨ s.tst = .timedOut)
    (hp : s.par.valid = true) (hover : s.par.abortAckTicks ≤ s.ackWait)
    (hin : s.inputs = .tick c false :: rest) :
    step s = .next (State.goFatal (State.ackWithheld (State.quietTick { s with inputs := rest }))) :=
  (step_teardown hs hp hin).trans (teardownTick_halts (s := State.quietTick { s with inputs := rest }) hover)

/-- Without the acknowledge a teardown ends when the rest of the wait and one tick more have passed (R161, R162). -/
theorem teardown_ends_halted {n : Nat} {s : State} {l : List Chip} {rest : List Input}
    (hs : s.tst = .completed ∨ s.tst = .timedOut) (hp : s.par.valid = true) (hheld : s.held = [])
    (hwait : s.ackWait + n = s.par.abortAckTicks) (hlen : l.length = n + 1)
    (hin : s.inputs = l.map (Input.tick · false) ++ rest) :
    ∃ u, core.run (n + 1) s = .next u ∧ s.EndsAs false rest u := by
  induction n generalizing s l with
  | zero =>
    obtain ⟨c, rfl⟩ := List.length_eq_one_iff.1 hlen
    have hstep := step_eq_goFatal hs hp (Nat.le_of_eq hwait.symm) hin
    refine ⟨_, core_run_succ hstep 0, ?_, rfl, rfl, rfl, rfl, rfl⟩
    simp [hheld, exitResponse]
  | succ n ih =>
    obtain ⟨c, l, rfl⟩ := List.exists_cons_of_length_eq_add_one hlen
    have hstep := step_eq_waited hs hp (by omega) hin
    have hwait' : s.ackWait + 1 + n = s.par.abortAckTicks := by omega
    obtain ⟨u, hrun, hends⟩ :=
      ih (s := s.waited (l.map (Input.tick · false) ++ rest)) (l := l) hs hp hheld hwait' (by simpa using hlen) rfl
    exact ⟨u, (core_run_succ hstep _).trans hrun, hends.results, hends.tst, hends.timer, hends.perrcnt,
      hends.inputs, hends.lineOut⟩

/-- A teardown that begins with no wait behind it, and with nothing held, ends in as many steps as its acknowledge
takes (R161 to R163, log entry 8). -/
theorem teardown_ends {s : State} {a : Bool} {l : List Chip} {rest : List Input}
    (hs : s.tst = .completed ∨ s.tst = .timedOut) (hp : s.par.valid = true) (hheld : s.held = [])
    (hzero : s.ackWait = 0) (hlen : l.length = (if a then 0 else s.par.abortAckTicks) + 1)
    (hin : s.inputs = l.map (Input.tick · a) ++ rest) :
    ∃ u, core.run l.length s = .next u ∧ s.EndsAs a rest u := by
  cases a with
  | true =>
    obtain ⟨c, rfl⟩ := List.length_eq_one_iff.1 hlen
    obtain ⟨u, hu, hends⟩ := teardown_ends_acknowledged hs hp hheld hin
    exact ⟨u, core_run_succ hu 0, hends⟩
  | false =>
    rw [hlen]
    exact teardown_ends_halted hs hp hheld (by rw [hzero, Nat.zero_add]; rfl) hlen hin

/-- The same from the exit poll on, whose tick is the first of the teardown (R161). -/
theorem State.Exits.ends {s : State} {x : TState} {b : List Byte} {a : Bool} {l : List Chip} {rest : List Input}
    (h : s.Exits x b) (hs : s.tst = .inFlight) (hp : s.par.valid = true) (hheld : s.held = [])
    (hlen : l.length = (if a then 0 else s.par.abortAckTicks) + 1)
    (hin : s.inputs = l.map (Input.tick · a) ++ rest) :
    ∃ u, core.run l.length s = .next u ∧ (s.exitPoll x b).EndsAs a rest u := by
  obtain ⟨u, hrun, hends⟩ := teardown_ends (s := s.exitPoll x b) h.tst hp hheld rfl hlen hin
  obtain ⟨c, l, rfl⟩ := List.exists_cons_of_length_eq_add_one hlen
  exact ⟨u, (core_run_succ_congr (h.step_eq hs hp hin) l.length).trans hrun, hends⟩

/-! ### The whole transaction -/

/-- The chips of a line from tick `t` up to tick `n`. -/
def chipsBetween (line : Nat → Chip) (t n : Nat) : List Chip := ((List.range n).drop t).map line

@[simp] theorem length_chipsBetween (line : Nat → Chip) (t n : Nat) : (chipsBetween line t n).length = n - t := by
  simp [chipsBetween]

/-- The ticks of a line from `t` on present its chips from `t` on. -/
theorem drop_lineTicks (line : Nat → Chip) (a : Bool) (n t : Nat) :
    (lineTicks line a n).drop t = (chipsBetween line t n).map (Input.tick · a) := by
  rw [lineTicks, chipsBetween, List.map_map, List.map_drop]
  rfl

/-- The tick at a place of a line of ticks. -/
theorem getElem?_lineTicks_append (line : Nat → Chip) (a : Bool) {n i : Nat} (hi : i < n) (rest : List Input) :
    (lineTicks line a n ++ rest)[i]? = some (.tick (line i) a) := by
  rw [List.getElem?_append_left (by simpa [lineTicks] using hi)]
  simp [lineTicks, hi]

/-- A `TRANSACT` that passes the checks in `Idle` is armed by the step that takes its request (R152, R153). -/
theorem step_transact_arms {s : State} {b : List Byte} {t : Timeout} {rest : List Input} (hp : s.par.valid = true)
    (hidle : s.tst = .idle) (hok : requestOk s.par { bytes := b, deadline := Timeout.deadline t } = true)
    (hin : s.inputs = .request (encode (.transact b t)) :: rest) :
    step s = .next (State.arm { s with inputs := rest } { bytes := b, deadline := Timeout.deadline t }) := by
  obtain ⟨harm, -, -⟩ := exec_transact_accepted (s := { s with inputs := rest }) hok
  exact (stepRunsDecodedRequest s _ rest (.transact b t) hp hin (decode_encode _)
    (Instr.wellFormed_eq_true _)).trans (harm hidle)

/-- A started block has received no chip, and its receiver is that of `FRX` but for `RXA` (R120, R154). -/
theorem State.start_flightAt {s : State} (h : s.Inv) (hs : s.tst = .armed) (line : Nat → Chip) :
    s.start.inFlightAt line 0 s.start.tx s.start.rx = s.start ∧
      s.start.FlightAt line 0 s.start.tx s.start.rx := by
  have heq : s.start.inFlightAt line 0 s.start.tx s.start.rx = s.start := by
    have hzero : saturatingAdd s.perrcnt (rxAfter s.par line 0).2 = s.perrcnt := saturatingAdd_zero _
    simp only [State.inFlightAt, State.start, hzero, List.drop_zero]
  obtain ⟨hbuf, hwp⟩ := h.armedClear hs
  refine ⟨heq, by rw [heq]; exact h.start hs, .inr ⟨nofun, s.rx.rxa, ?_⟩⟩
  simp only [State.start_rx, RxUnit.begin, hbuf, hwp]
  rfl

/-- An armed transaction with nothing held and the same acknowledge in every tick ends as the function form says:
the ticks up to the exit poll, then the teardown (R156, R161 to R163, R166). -/
theorem armed_transaction_ends {s : State} {b : List Byte} {t : Timeout} {line : Nat → Chip} {a : Bool}
    {last wait : Nat} {rest : List Input} (h : s.Inv) (hs : s.tst = .armed) (hheld : s.held = [])
    (hT : s.timeout = Timeout.deadline t) (hwait : wait = (if a then 0 else s.par.abortAckTicks))
    (hok : requestOk s.par { bytes := b, deadline := Timeout.deadline t } = true)
    (hlast : last = exitTick s.par line (Timeout.deadline t))
    (hin : s.inputs = lineTicks line a (last + 1 + wait) ++ rest) :
    ∃ u : State, core.run (last + 1 + wait) s = .next u ∧
      u.results = s.results ++ [transactFunction s.par b t line a] ∧
      u.tst = (if a then .idle else .halted) ∧ u.timer = last ∧
      u.perrcnt = saturatingAdd s.perrcnt (rxAfter s.par line last).2 ∧
      u.inputs = rest ∧ u.tx.lineOut = false := by
  have hget {i : Nat} (hi : i < last + 1 + wait) : s.inputs[i]? = some (.tick (line i) a) :=
    hin ▸ getElem?_lineTicks_append line a hi rest
  have hexit : last = exitTick s.par line s.timeout := hT ▸ hlast
  obtain ⟨hstarted, hzero⟩ := State.start_flightAt h hs line
  obtain ⟨tx, rx, hrun, hat⟩ := hzero.run (t := last) (a := a) rfl
    (fun i hi => hget (by have : i < last := hexit ▸ hi; omega)) (Nat.le_of_eq hexit)
  obtain ⟨x, bytes, hexits, hresponse⟩ := hat.exits hlast hT hok a
  have hlen : (chipsBetween line last (last + 1 + wait)).length = wait + 1 := by
    rw [length_chipsBetween]
    omega
  have hinputs : s.inputs.drop last =
      (chipsBetween line last (last + 1 + wait)).map (Input.tick · a) ++ rest := by
    have hle : last ≤ (lineTicks line a (last + 1 + wait)).length := by
      simp only [lineTicks, List.length_map, List.length_range]
      omega
    rw [hin, List.drop_append_of_le_length hle, drop_lineTicks]
  obtain ⟨u, hrest, hends⟩ := hexits.ends rfl h.parameters hheld (hwait ▸ hlen) hinputs
  refine ⟨u, ?_, hresponse ▸ hends.results, hends.tst, hends.timer, hends.perrcnt, hends.inputs,
    hends.lineOut⟩
  have hfirst : s.inputs = .tick (line 0) a :: s.inputs.tail :=
    (List.cons_head?_tail (List.head?_eq_getElem?.trans (hget (by omega)))).symm
  calc core.run (last + 1 + wait) s
    _ = core.run (last + wait + 1) s := by rw [Nat.add_right_comm]
    _ = core.run (last + wait + 1) s.start := core_run_succ_congr (step_start hs h.parameters hfirst) _
    _ = core.run (last + (wait + 1)) (s.start.inFlightAt line 0 s.start.tx s.start.rx) := by
      rw [hstarted, Nat.add_assoc]
    _ = core.run (wait + 1) (s.start.inFlightAt line last tx rx) := core_run_add hrun _
    _ = .next u := hlen ▸ hrest

/-- Settles O40: the request arms in one step, and the armed transaction ends as the function form says. -/
theorem transactMatchesFunction : Obligations.TransactMatchesFunction := by
  intro s b t line a wait rest h hidle hwait hok hin
  have hstep := step_transact_arms h.parameters hidle hok hin
  have harmed := stepKeepsInvariant s _ h hstep
  obtain ⟨u, hrun, hend⟩ := armed_transaction_ends harmed rfl (h.held_eq_nil hidle) rfl hwait hok rfl rfl
  refine ⟨u, ?_, hend⟩
  have hcount : exitTick s.par line (Timeout.deadline t) + 2 + wait =
      exitTick s.par line (Timeout.deadline t) + 1 + wait + 1 := by omega
  rw [hcount]
  exact (core_run_succ hstep _).trans hrun

end Sys2Proof.Machine
end

section
/-!
PROOFS. The ticks of a transaction, one by one (R154 to R158, R161, R168).
-/

namespace Sys2Proof.Machine

/-- Settles O30: with no poll the tick is a tick of the line. -/
theorem tickWithoutPoll : Obligations.TickWithoutPoll := by
  intro s c a h hs hnopoll
  rw [tick_of_stay c a hs fun hpoll => absurd hpoll hnopoll]
  exact h.lineTick_eq c

/-- The poll at a deadline with no terminator stored leaves `InFlight` for `TimedOut` (R158). -/
theorem State.exits_timedOut {s : State} (hpoll : s.timer % s.par.pollTicks = 0)
    (hnone : ∀ i, i < s.par.rxSlots → Memory.read s.rx.rxbuf i ≠ terminator) (hT : s.timeout ≤ s.timer) :
    s.Exits .timedOut [] :=
  ⟨hpoll, .inr ⟨by rw [State.poll_of_none hnone, if_pos hT], rfl, rfl⟩⟩

/-- A poll with a terminator stored leaves `InFlight` for `Completed` (R157). -/
theorem State.exits_completed {s : State} {j : Nat} (hpoll : s.timer % s.par.pollTicks = 0)
    (hj : j < s.par.rxSlots) (hread : Memory.read s.rx.rxbuf j = terminator)
    (hfirst : ∀ i, i < j → Memory.read s.rx.rxbuf i ≠ terminator) :
    s.Exits .completed (s.resultBytes j) :=
  ⟨hpoll, .inl ⟨j, State.poll_of_first hj hread hfirst, rfl, rfl⟩⟩

/-- Settles O31: the tick is the acknowledged teardown of the state the exit poll leaves. -/
theorem pollFindsTerminator : Obligations.PollFindsTerminator := by
  intro s c j hp hheld hs hpoll hj hread hfirst
  have hexits := State.exits_completed hpoll hj hread hfirst
  obtain ⟨u, hu, hserved⟩ :=
    acknowledgeEndsTeardown (s.exitPoll .completed (s.resultBytes j)) c (.inl rfl) hp hheld
  exact ⟨s.resultBytes j, u, (hexits.tick_eq hs c true).trans hu, hserved, resultBytes_isResultOf s j⟩

/-- Settles O32: at the deadline the tick is an acknowledged teardown, before it a tick of the line. -/
theorem pollFindsNoTerminator : Obligations.PollFindsNoTerminator := by
  intro s c hs hpoll hnone
  refine ⟨fun hT hp hheld => ?_, fun hT a h => ?_⟩
  · have hexits := State.exits_timedOut hpoll hnone hT
    obtain ⟨u, hu, hserved⟩ := acknowledgeEndsTeardown (s.exitPoll .timedOut []) c (.inr rfl) hp hheld
    exact ⟨u, (hexits.tick_eq hs c true).trans hu, hserved⟩
  · rw [tick_of_stay c a hs fun _ => by rw [State.poll_of_none hnone, if_neg (Nat.not_le.2 hT)]]
    exact h.lineTick_eq c

/-- The cleared receive buffer of an armed block holds no terminator (R153). -/
theorem State.Inv.armed_noTerminator {s : State} (h : s.Inv) (hs : s.tst = .armed) (i : Nat) :
    Memory.read s.rx.rxbuf i ≠ terminator := by
  rw [(h.armedClear hs).1]
  exact nofun

/-- The first tick of a started transmitter drives chip 0 of the preamble, a 0 (R112, R114). -/
theorem TxUnit.tick_begin (p : Config.Params) (tx : TxUnit) :
    TxUnit.tick p tx.begin = .ok { tx.begin with lineOut := false, txpos := 1 } := rfl

/-- The first chip of a started receiver is looked at in `RX_QUIET` (R121). -/
theorem RxUnit.tick_begin (slots : Nat) (c : Chip) (rx : RxUnit) :
    RxUnit.tick slots c rx.begin = ({ rx.begin with rxst := if c then .quiet else .arm }, false) := by
  cases c <;> rfl

/-- Settles O29: tick 0 is a poll that stays, then the line with both units just started. -/
theorem armedTickStartsBothUnits : Obligations.ArmedTickStartsBothUnits := by
  intro s c a h hs hT
  have hstay : s.start.poll = .stay := by
    rw [State.poll_of_none (s := s.start) fun i _ => h.armed_noTerminator hs i]
    exact if_neg (Nat.not_le.2 hT)
  rw [tick_start c a hs, tick_of_stay c a (s := s.start) rfl fun _ => hstay,
    lineTick_ok c s.start _ (TxUnit.tick_begin _ _), State.start_rx, RxUnit.tick_begin]
  rfl

/-- Settles O60: tick 0 is a poll at the deadline. -/
theorem zeroDeadlineEndsAtOnce : Obligations.ZeroDeadlineEndsAtOnce := by
  intro s c h hs hT
  have hexits : s.start.Exits .timedOut [] :=
    State.exits_timedOut (Nat.zero_mod _) (fun i _ => h.armed_noTerminator hs i) (Nat.le_of_eq hT)
  obtain ⟨u, hu, hserved⟩ := acknowledgeEndsTeardown (s.start.exitPoll .timedOut []) c (.inr rfl) h.parameters
    h.heldOk
  exact ⟨u, (tick_start c true hs).trans ((hexits.tick_eq rfl c true).trans hu), hserved⟩

/-- The teardown of a completed transaction times nothing out. -/
theorem teardownTick_completed {a : Bool} {s u : State} (hs : s.tst = .completed)
    (h : teardownTick a s = .next u) :
    u.tst ≠ .timedOut ∧ u.results ≠ s.results ++ [.error 0x6#4 .receiveTimeout] := by
  rcases teardownTick_next h with ⟨htst | htst, hres⟩ | ⟨htst, hres⟩ | ⟨htst, hres⟩ <;> rw [htst, hres]
  · simp [hs]
  · simp [hs]
  · simp [hs]
  · simp

/-- Settles O33: a tick that stays times nothing out, and neither does the teardown of a completed transaction. -/
theorem timeoutNeverEarly : Obligations.TimeoutNeverEarly := by
  intro s u c a hs hu htimedOut
  rw [tick, hs] at hu
  rcases inFlightTick_cases c a s with ⟨e, -⟩ | ⟨-, j, -, e⟩ | ⟨hpoll, ht, -⟩
  · obtain ⟨t, -, rfl⟩ := lineTick_next (e.symm.trans hu)
    simp [hs] at htimedOut
  · have hnot := teardownTick_completed (s := s.exitPoll .completed (s.resultBytes j)) rfl (e.symm.trans hu)
    exact (htimedOut.elim hnot.1 hnot.2).elim
  · rcases s.poll_cases with ⟨j, hj, -⟩ | ⟨hnone, ⟨hT, -⟩ | ⟨-, hstay⟩⟩
    · cases hj.symm.trans ht
    · exact ⟨hT, hpoll, hnone⟩
    · cases hstay.symm.trans ht

/-- A poll exits in one way. -/
theorem State.Exits.unique {s : State} {x y : TState} {b d : List Byte} (h : s.Exits x b) (h' : s.Exits y d) :
    x = y ∧ b = d := by
  obtain ⟨-, ⟨j, hj, rfl, rfl⟩ | ⟨ht, rfl, rfl⟩⟩ := h <;>
    obtain ⟨-, ⟨k, hk, rfl, rfl⟩ | ⟨ht', rfl, rfl⟩⟩ := h'
  · cases hj.symm.trans hk
    exact ⟨rfl, rfl⟩
  · cases hj.symm.trans ht'
  · cases ht.symm.trans hk
  · exact ⟨rfl, rfl⟩

/-- A poll with a terminator stored or the deadline passed exits (R156). -/
theorem State.exists_exits {s : State} (hpoll : s.timer % s.par.pollTicks = 0)
    (h : (∃ j, j < s.par.rxSlots ∧ Memory.read s.rx.rxbuf j = terminator) ∨ s.timeout ≤ s.timer) :
    ∃ x b, s.Exits x b := by
  rcases s.poll_cases with ⟨j, -, hj, hread, hfirst⟩ | ⟨hnone, hT⟩
  · exact ⟨_, _, State.exits_completed hpoll hj hread hfirst⟩
  · rcases h with ⟨j, hj, hread⟩ | hT
    · exact absurd hread (hnone j hj)
    · exact ⟨_, _, State.exits_timedOut hpoll hnone hT⟩

/-- Settles O59: the tick is the first of a teardown whose acknowledge is withheld, from the state the exit poll
leaves; which state that is, the poll alone decides. -/
theorem exitPollWithoutAcknowledge : Obligations.ExitPollWithoutAcknowledge := by
  intro s c hs hpoll hexit
  obtain ⟨x, b, hexits⟩ := State.exists_exits hpoll hexit
  obtain ⟨hhalts, hwaits⟩ := withheldAcknowledgeIsFatal (s.exitPoll x b) c hexits.tst
  rcases Nat.eq_zero_or_pos s.par.abortAckTicks with hzero | hpos
  · obtain ⟨u, hu, e⟩ := hhalts (Nat.le_of_eq hzero)
    exact ⟨u, (hexits.tick_eq hs c false).trans hu, fun h => absurd h (by omega), fun _ => e⟩
  · obtain ⟨u, hu, e⟩ := hwaits hpos
    have htst : u.tst = x := by rw [e]; rfl
    have hcaptured : u.captured = b := by rw [e]; rfl
    refine ⟨u, (hexits.tick_eq hs c false).trans hu,
      fun _ => ⟨?_, fun j hj hread hfirst => ?_, fun hnone => ?_⟩,
      fun h => absurd h (by omega)⟩
    · rw [htst, hcaptured]
      exact e
    · obtain ⟨hx, hb⟩ := hexits.unique (State.exits_completed hpoll hj hread hfirst)
      rw [htst, hcaptured, hx, hb]
      exact ⟨rfl, resultBytes_isResultOf s j⟩
    · have hT : s.timeout ≤ s.timer := hexit.resolve_left fun ⟨j, hj, hread⟩ => hnone j hj hread
      obtain ⟨hx, hb⟩ := hexits.unique (State.exits_timedOut hpoll hnone hT)
      rw [htst, hcaptured]
      exact ⟨hx, hb⟩

end Sys2Proof.Machine
end

section
/-!
PROOFS. What the transport operations answer, in terms of the expander and the compressor (R180 to R192).
-/

namespace Sys2Proof.Machine

/-! ### The expander -/

/-- A finite limit, and only a finite one, refuses a length (R2, R180). -/
theorem exceedsExpandMax_eq_true_iff (limit : Option Nat) (n : Int) :
    exceedsExpandMax limit n = true ↔ ∃ m : Nat, limit = some m ∧ (m : Int) < n := by
  cases limit <;> simp

/-- The descriptors `TEXP` refuses are those R181 calls malformed and those R180's limit is too small for. -/
theorem expand_eq_none_iff (limit : Option Nat) (ws : List Word) (d : RDesc) :
    expand limit ws (some d) = none ↔
      d.count < 0 ∨ (0 < d.count ∧ (d.offset < 0 ∨ (ws.length : Int) ≤ d.offset)) ∨
        (0 < d.count ∧ 0 ≤ d.offset ∧ d.offset < ws.length ∧
          ∃ m : Nat, limit = some m ∧ (m : Int) < d.offset + d.count * ((ws.length : Int) - d.offset)) := by
  rw [← exceedsExpandMax_eq_true_iff]
  rcases expand_cases limit ws (some d) with ⟨hzero, e⟩ | ⟨_, ⟨⟩, hbad, e⟩ |
    ⟨_, ⟨⟩, hcount, hoff, hlt, hlong, e⟩ | ⟨_, ⟨⟩, hcount, hoff, hlt, hfits, e⟩
  · have hcount : d.count = 0 := by simpa using hzero
    simp [e, hcount]
  · simpa [e] using hbad.imp_right .inl
  · simp [e, hcount, hoff, hlt, hlong]
  · simp [e, hfits]
    omega

/-- Without a descriptor the sequence is its own expansion (R180). -/
@[simp] theorem expand_none (limit : Option Nat) (ws : List Word) : expand limit ws none = some ws := rfl

/-- With count 0 the sequence is its own expansion, whatever the offset and the limit (R180). -/
@[simp] theorem expand_count_zero (limit : Option Nat) (ws : List Word) (o : Int) :
    expand limit ws (some { count := 0, offset := o }) = some ws := rfl

/-- A positive count with an offset inside the sequence repeats the tail, if the limit allows the length (R180). -/
theorem expand_repeats {limit : Option Nat} {ws : List Word} {c o : Nat} (hc : 0 < c) (ho : o < ws.length)
    (hfits : ∀ m, limit = some m → o + c * (ws.length - o) ≤ m) :
    expand limit ws (some { count := c, offset := o }) =
      some (ws.take o ++ (List.replicate c (ws.drop o)).flatten) := by
  have hlen : (o : Int) + c * ((ws.length : Int) - o) = (o + c * (ws.length - o) : Nat) := by
    rw [← Nat.cast_sub ho.le]
    push_cast
    rfl
  have hnot : exceedsExpandMax limit ((o : Int) + c * ((ws.length : Int) - o)) = false := by
    rw [hlen, Bool.eq_false_iff, ne_eq, exceedsExpandMax_eq_true_iff]
    rintro ⟨m, hm, hlong⟩
    exact absurd (hfits m hm) (by omega)
  rcases expand_cases limit ws (some { count := c, offset := o }) with ⟨hzero, -⟩ | ⟨_, ⟨⟩, hbad, -⟩ |
    ⟨_, ⟨⟩, -, -, -, hlong, -⟩ | ⟨_, ⟨⟩, -, -, -, -, e⟩
  · have hcount : c = 0 := by simpa using hzero
    omega
  · simp only at hbad
    omega
  · cases hnot.symm.trans hlong
  · exact e

/-- Element `k` of a list written `n` times is element `k` modulo its length. -/
theorem getElem?_flatten_replicate {α : Type} (l : List α) {n k : Nat} (hk : k < n * l.length) :
    (List.replicate n l).flatten[k]? = l[k % l.length]? := by
  induction n generalizing k with
  | zero => simp at hk
  | succ n ih =>
    rw [List.replicate_succ, List.flatten_cons]
    rcases Nat.lt_or_ge k l.length with hlt | hge
    · rw [List.getElem?_append_left hlt, Nat.mod_eq_of_lt hlt]
    · rw [Nat.succ_mul] at hk
      rw [List.getElem?_append_right hge, ih (by omega), ← Nat.mod_eq_sub_mod hge]

/-! ### The operations -/

/-- `TEXP` answers a sequence exactly when the expander gives it (R180). -/
theorem exec_texp_words_iff (ws f : List Word) (d : Option RDesc) (s : State) :
    exec (.texp ws d) s = .next (s.endOk 0x7#4 (.words f)) ↔ expand s.par.expandMaxWords ws d = some f := by
  rcases h : expand s.par.expandMaxWords ws d with _ | g <;>
    simp [exec, execTexp, h, State.endOk, State.raiseError]

/-- `TEXP` ends with `InvalidInput` exactly when the expander gives nothing (R181). -/
theorem exec_texp_invalidInput_iff (ws : List Word) (d : Option RDesc) (s : State) :
    exec (.texp ws d) s = .next (s.raiseError 0x7#4 .invalidInput) ↔
      expand s.par.expandMaxWords ws d = none := by
  rcases h : expand s.par.expandMaxWords ws d with _ | g <;>
    simp [exec, execTexp, h, State.endOk, State.raiseError]

/-- `TENC` answers the bytes of what the expander gives (R184). -/
theorem exec_tenc_of_expand {ws f : List Word} {d : Option RDesc} {s : State}
    (h : expand s.par.expandMaxWords ws d = some f) :
    exec (.tenc ws d) s = .next (s.endOk 0x8#4 (.bytes (tbytes f))) := by
  simp only [exec, execTenc, h]

/-- `TENC` ends with `InvalidInput` when the expander gives nothing (R181, R184). -/
theorem exec_tenc_invalidInput {ws : List Word} {d : Option RDesc} {s : State}
    (h : expand s.par.expandMaxWords ws d = none) :
    exec (.tenc ws d) s = .next (s.raiseError 0x8#4 .invalidInput) := by
  simp only [exec, execTenc, h]

/-- `TDEC` of an even number of bytes answers their words (R188). -/
theorem exec_tdec_even {b : List Byte} (s : State) (h : b.length % 2 = 0) :
    exec (.tdec b) s = .next (s.endOk 0x9#4 (.words (wordsOfBytes b))) := by
  simp [exec, execTdec, h]

/-- `TDEC` of an odd number of bytes ends with `InvalidFrame` (R188). -/
theorem exec_tdec_odd {b : List Byte} (s : State) (h : b.length % 2 = 1) :
    exec (.tdec b) s = .next (s.raiseError 0x9#4 .invalidFrame) := by
  simp [exec, execTdec, h]

/-! ### Bytes to words and back -/

/-- The low byte of a word built from two bytes (R63, R67). -/
@[simp] theorem lowByte_wordOfBytes (b0 b1 : Byte) : (wordOfBytes b0 b1).extractLsb' 0 8 = b0 := by
  apply BitVec.eq_of_toNat_eq
  rw [toNat_lowByte, toNat_wordOfBytes]
  omega

/-- The high byte of a word built from two bytes (R63, R67). -/
@[simp] theorem highByte_wordOfBytes (b0 b1 : Byte) : (wordOfBytes b0 b1).extractLsb' 8 8 = b1 := by
  apply BitVec.eq_of_toNat_eq
  rw [toNat_highByte, toNat_wordOfBytes]
  omega

/-- The bytes of the words of a stream of even length are the stream (R195). -/
theorem tbytes_wordsOfBytes {b : List Byte} (h : b.length % 2 = 0) : tbytes (wordsOfBytes b) = b := by
  fun_induction wordsOfBytes b with
  | case1 b0 b1 rest ih =>
    have hrest : rest.length % 2 = 0 := by
      simp only [List.length_cons] at h
      omega
    simp [ih hrest]
  | case2 b hb =>
    match b with
    | [] => rfl
    | [_] => cases h
    | b0 :: b1 :: rest => exact absurd rfl (hb b0 b1 rest)

/-- `TDEC` of the bytes of a sequence answers the sequence (R195). -/
theorem exec_tdec_tbytes (ws : List Word) (s : State) :
    exec (.tdec (tbytes ws)) s = .next (s.endOk 0x9#4 (.words ws)) := by
  rw [exec_tdec_even s (by simp), wordsOfBytes_tbytes]

/-! ### The compressor and the tail run -/

/-- A sequence with a last word ends in a run of it that the word before, if any, does not extend. -/
theorem exists_maximal_tail_run (l : List Word) (w : Word) :
    ∃ pre r, l ++ [w] = pre ++ List.replicate (r + 1) w ∧ pre.getLast? ≠ some w := by
  induction l using List.reverseRecOn with
  | nil => exact ⟨[], 0, rfl, nofun⟩
  | append_singleton l x ih =>
    by_cases hx : x = w
    · obtain ⟨pre, r, e, hmax⟩ := ih
      exact ⟨pre, r + 1, by rw [List.replicate_succ', ← List.append_assoc, ← e, hx], hmax⟩
    · exact ⟨l ++ [x], 0, rfl, by simpa using hx⟩

/-- A sequence whose last two words are equal ends in a run of two or more that is as long as it can be. -/
theorem exists_tail_run {ws : List Word} (h : ∃ pre w, ws = pre ++ [w, w]) :
    ∃ pre w r, ws = pre ++ List.replicate r w ∧ 2 ≤ r ∧ pre.getLast? ≠ some w := by
  obtain ⟨l, w, rfl⟩ := h
  obtain ⟨pre, r, e, hmax⟩ := exists_maximal_tail_run l w
  exact ⟨pre, w, r + 2, by rw [List.replicate_succ', ← List.append_assoc, ← e]; simp, by omega, hmax⟩

/-- A sequence whose last two words are not equal has no tail run of two (R192). -/
theorem tailRun_lt_two {ws : List Word} (h : ∀ pre w, ws ≠ pre ++ [w, w]) : tailRun ws < 2 := by
  rcases List.eq_nil_or_concat ws with rfl | ⟨l, w, rfl⟩
  · exact Nat.zero_lt_two
  · obtain ⟨pre, r, e, hmax⟩ := exists_maximal_tail_run l w
    rw [List.concat_eq_append, e, tailRun_append_replicate pre w (r + 1) (by omega) hmax]
    cases r with
    | zero => exact Nat.one_lt_two
    | succ r =>
      refine absurd ?_ (h (pre ++ List.replicate r w) w)
      simp [List.concat_eq_append, e, List.replicate_succ']

/-- `TCMP` stores a tail run of two or more once (R192). -/
theorem compress_append_replicate {pre : List Word} {w : Word} {r : Nat} (hr : 2 ≤ r)
    (hmax : pre.getLast? ≠ some w) :
    compress (pre ++ List.replicate r w) = (pre ++ [w], { count := r, offset := pre.length }) := by
  have hrun := tailRun_append_replicate pre w r (by omega) hmax
  have hlast : (pre ++ List.replicate r w).getLast? = some w := by
    simp [List.getLast?_append, List.getLast?_replicate, show r ≠ 0 by omega]
  have hlen : (pre ++ List.replicate r w).length - r = pre.length := by simp
  rw [compress, hrun, if_pos hr, hlast, hlen, List.take_left]
  rfl

/-- `TCMP` leaves a sequence without a tail run alone (R192). -/
theorem compress_eq_self {ws : List Word} (h : ∀ pre w, ws ≠ pre ++ [w, w]) :
    compress ws = (ws, { count := 0, offset := 0 }) := by
  rw [compress, if_neg (by have := tailRun_lt_two h; omega)]

/-- What `TCMP` answers is no longer than the sequence it was given (R192). -/
theorem length_compress_le (ws : List Word) : (compress ws).1.length ≤ ws.length := by
  by_cases hrun : ∃ pre w, ws = pre ++ [w, w]
  · obtain ⟨pre, w, r, rfl, hr, hmax⟩ := exists_tail_run hrun
    simp only [compress_append_replicate hr hmax, List.length_append, List.length_replicate,
      List.length_singleton]
    omega
  · rw [compress_eq_self (by simpa using hrun)]

/-- Expanding what `TCMP` answers gives the sequence back, unless it has a tail run and is too long (R192, log
entry 33). -/
theorem expand_compress {limit : Option Nat} {ws : List Word}
    (h : (∀ m, limit = some m → ws.length ≤ m) ∨ ∀ pre w, ws ≠ pre ++ [w, w]) :
    expand limit (compress ws).1 (some (compress ws).2) = some ws := by
  by_cases hrun : ∃ pre w, ws = pre ++ [w, w]
  · have hfits := h.resolve_right (by simpa using hrun)
    obtain ⟨pre, w, r, rfl, hr, hmax⟩ := exists_tail_run hrun
    rw [compress_append_replicate hr hmax, expand_repeats (by omega) (by simp) (by simpa using hfits),
      List.take_left, List.drop_left, List.flatten_replicate_singleton]
  · rw [compress_eq_self (by simpa using hrun), expand_count_zero]

/-- Expanding what `TCMP` answers for a sequence with a tail run is refused above a finite limit (R180, log
entry 33). -/
theorem expand_compress_eq_none {m : Nat} {ws : List Word} (hlong : m < ws.length)
    (hrun : ∃ pre w, ws = pre ++ [w, w]) :
    expand (some m) (compress ws).1 (some (compress ws).2) = none := by
  obtain ⟨pre, w, r, rfl, hr, hmax⟩ := exists_tail_run hrun
  rw [compress_append_replicate hr hmax, expand_eq_none_iff]
  have hlong : m < pre.length + r := by simpa using hlong
  refine .inr (.inr ⟨by simp only; omega, Int.natCast_nonneg _, by simp, m, rfl, ?_⟩)
  simpa using (by omega : (m : Int) < pre.length + r)

end Sys2Proof.Machine
end

section
/-!
PROOFS. The statements of the Frame Transport Codec (R180 to R196).
-/

namespace Sys2Proof.Machine

/-- Settles O47: words and bytes convert into each other without loss, and neither operation refuses. -/
theorem transportRoundTrip : Obligations.TransportRoundTrip := by
  refine ⟨fun b s heven => ⟨wordsOfBytes b, exec_tdec_even s heven, ?_⟩, fun ws s =>
    ⟨tbytes ws, exec_tenc_of_expand (expand_none _ _), exec_tdec_tbytes ws s⟩⟩
  rw [exec_tenc_of_expand (expand_none _ _), tbytes_wordsOfBytes heven]

/-- Settles O48: `TDEC` undoes the bytes of whatever the expander gives, and the expander undoes the compressor
unless R180's limit refuses the length. -/
theorem descriptorInvisibleToDecode : Obligations.DescriptorInvisibleToDecode := by
  refine ⟨fun ws f d s h => ?_, fun ws s => ⟨(compress ws).1, (compress ws).2, rfl, length_compress_le ws,
    fun h => ?_, fun m hm hlong hrun => ?_⟩⟩
  · have hf := (exec_texp_words_iff ws f d s).1 h
    exact ⟨tbytes f, exec_tenc_of_expand hf, exec_tdec_tbytes f s⟩
  · have hback := expand_compress h
    exact ⟨(exec_texp_words_iff _ _ _ _).2 hback,
      (exec_tenc_of_expand hback).trans (exec_tenc_of_expand (expand_none _ _)).symm⟩
  · have hnone : expand s.par.expandMaxWords (compress ws).1 (some (compress ws).2) = none := by
      rw [hm]
      exact expand_compress_eq_none hlong hrun
    exact ⟨(exec_texp_invalidInput_iff _ _ _).2 hnone, exec_tenc_invalidInput hnone⟩

/-- Settles O41: the words before the offset stay, and word `k` after it is word `k` modulo the tail's length. -/
theorem texpResult : Obligations.TexpResult := by
  intro ws s
  refine ⟨rfl, fun _ => rfl, fun c o hc ho hfits => ?_⟩
  have htake : (ws.take o).length = o := List.length_take_of_le ho.le
  refine ⟨_, (exec_texp_words_iff _ _ _ _).2 (expand_repeats hc ho hfits), ?_, ?_, fun k hk => ?_⟩
  · simp [htake]
  · rw [List.take_left' htake]
  · rw [List.getElem?_append_right (by omega), htake, Nat.add_sub_cancel_left,
      getElem?_flatten_replicate _ (by simpa using hk), List.getElem?_drop, List.length_drop]

/-- Settles O42: these are the descriptors for which the expander gives nothing. -/
theorem badDescriptorIsInvalidInput : Obligations.BadDescriptorIsInvalidInput := by
  intro ws d s hbad
  have hnone := (expand_eq_none_iff s.par.expandMaxWords ws d).2 hbad
  exact ⟨(exec_texp_invalidInput_iff _ _ _).2 hnone, exec_tenc_invalidInput hnone⟩

/-- Settles O43: both operations answer by the one expander, and `TENC` serializes its words. -/
theorem tencResult : Obligations.TencResult := by
  refine fun ws d s => ⟨fun f h => ?_, fun h => ?_⟩
  · have hf := (exec_texp_words_iff ws f d s).1 h
    exact ⟨tbytes f, exec_tenc_of_expand hf, length_tbytes f, getElem?_tbytes f⟩
  · exact exec_tenc_invalidInput ((exec_texp_invalidInput_iff ws d s).1 h)

/-- Settles O44: a descriptor the rules allow meets none of the expander's refusals. -/
theorem tencCompletes : Obligations.TencCompletes := by
  intro ws d s hallowed
  have hexpands : expand s.par.expandMaxWords ws d ≠ none := by
    cases d with
    | none => simp
    | some e =>
      obtain ⟨hcount, hpos⟩ := hallowed e rfl
      rw [ne_eq, expand_eq_none_iff]
      rintro (hneg | ⟨hc, hoff⟩ | ⟨hc, -, -, m, hm, hlong⟩)
      · omega
      · obtain ⟨h0, hlt, -⟩ := hpos hc
        omega
      · obtain ⟨-, -, hfits⟩ := hpos hc
        exact absurd (hfits m hm) (by omega)
  obtain ⟨f, hf⟩ := Option.ne_none_iff_exists'.1 hexpands
  exact ⟨tbytes f, exec_tenc_of_expand hf, by simp⟩

/-- Settles O45: each pair of bytes is one word, and an odd byte left over refuses the stream. -/
theorem tdecResult : Obligations.TdecResult := fun b s =>
  ⟨exec_tdec_odd s, fun heven =>
    ⟨wordsOfBytes b, exec_tdec_even s heven, length_wordsOfBytes b, getElem?_wordsOfBytes b⟩⟩

/-- Settles O46: the compressor's answer with a tail run and without one is what `TCMP` hands to the host. -/
theorem tcmpResult : Obligations.TcmpResult := by
  refine ⟨fun pre w r s hr hmax => ?_, fun ws s hnone => ?_⟩
  · simp only [exec, execTcmp, compress_append_replicate hr hmax, State.endOk]
  · simp only [exec, execTcmp, compress_eq_self hnone, State.endOk]

end Sys2Proof.Machine
end

section
/-!
PROOFS. The registers the host reads, and the contract of the HTTP tunnel (R200, R222 to R226).
-/

namespace Sys2Proof.Machine

/-! ### The register table -/

/-- The register table ends at number 6 (spec/10_state.md section 4). -/
theorem State.register_beyond_table (s : State) {n : Nat} (h : 7 ≤ n) : s.register n = 0 := by
  obtain ⟨m, rfl⟩ := Nat.exists_eq_add_of_le' h
  rfl

/-- Settles O50: the numbers of the table are the branches of `State.register`, and a write is dropped. -/
theorem registerMap : Obligations.RegisterMap := fun s =>
  ⟨rfl, rfl, rfl, rfl, rfl, rfl, rfl, fun _ => s.register_beyond_table, fun _ _ => rfl,
    rfl, rfl, rfl, rfl, rfl⟩

/-! ### What `TENC`'s answer says of the expander -/

/-- The host sees which value an operation ended with (R30). -/
theorem State.endOk_value_inj {s : State} {op : BitVec 4} {v v' : OpValue} (h : s.endOk op v = s.endOk op v') :
    v = v' := by
  simpa using congrArg State.results h

/-- The host can tell success from an error (R30, R207). -/
theorem State.endOk_ne_raiseError (s : State) (op op' : BitVec 4) (v : OpValue) (k : ErrKind) :
    s.endOk op v ≠ s.raiseError op' k := by
  intro h
  simpa using congrArg State.results h

/-- `TENC` answers bytes exactly when they are those of what the expander gives (R184). -/
theorem exec_tenc_bytes_iff (ws : List Word) (d : Option RDesc) (b : List Byte) (s : State) :
    exec (.tenc ws d) s = .next (s.endOk 0x8#4 (.bytes b)) ↔
      ∃ f, expand s.par.expandMaxWords ws d = some f ∧ b = tbytes f := by
  refine ⟨fun h => ?_, fun ⟨f, hf, hb⟩ => hb ▸ exec_tenc_of_expand hf⟩
  cases hx : expand s.par.expandMaxWords ws d with
  | none =>
    have hsame := (exec_tenc_invalidInput hx).symm.trans h
    exact absurd (Host.Outcome.next.inj hsame).symm (s.endOk_ne_raiseError _ _ _ _)
  | some f =>
    have hsame := h.symm.trans (exec_tenc_of_expand hx)
    exact ⟨f, rfl, OpValue.bytes.inj (State.endOk_value_inj (Host.Outcome.next.inj hsame))⟩

/-- `TENC` ends with `InvalidInput` exactly when the expander gives nothing (R181, R184). -/
theorem exec_tenc_invalidInput_iff (ws : List Word) (d : Option RDesc) (s : State) :
    exec (.tenc ws d) s = .next (s.raiseError 0x8#4 .invalidInput) ↔
      expand s.par.expandMaxWords ws d = none := by
  refine ⟨fun h => ?_, exec_tenc_invalidInput⟩
  cases hx : expand s.par.expandMaxWords ws d with
  | none => rfl
  | some f =>
    have hsame := (exec_tenc_of_expand hx).symm.trans h
    exact absurd (Host.Outcome.next.inj hsame) (s.endOk_ne_raiseError _ _ _ _)

/-! ### Requests of the tunnel -/

/-- The bytes `TENC` answers for a frame are the body of its request (R184, R222). -/
theorem TunnelRequest.ofFrame_of_tenc_bytes {s : State} {ws : List Word} {d : Option RDesc} {b : List Byte}
    (h : exec (.tenc ws d) s = .next (s.endOk 0x8#4 (.bytes b))) (t : Option Nat) (a : Option (List Byte)) :
    TunnelRequest.ofFrame s.par.expandMaxWords ws d t a =
      some { body := b, timeoutMs := t, destination := a } := by
  obtain ⟨f, hf, rfl⟩ := (exec_tenc_bytes_iff ws d b s).1 h
  rcases TunnelRequest.ofFrame_eq s.par.expandMaxWords ws d t a with ⟨hnone, -⟩ | ⟨g, hg, hrequest⟩
  · cases hf.symm.trans hnone
  · cases hf.symm.trans hg
    exact hrequest

/-- A frame `TENC` refuses has no request (R181, R222). -/
theorem TunnelRequest.ofFrame_of_tenc_invalidInput {s : State} {ws : List Word} {d : Option RDesc}
    (h : exec (.tenc ws d) s = .next (s.raiseError 0x8#4 .invalidInput)) (t : Option Nat)
    (a : Option (List Byte)) : TunnelRequest.ofFrame s.par.expandMaxWords ws d t a = none := by
  have hnone := (exec_tenc_invalidInput_iff ws d s).1 h
  rcases TunnelRequest.ofFrame_eq s.par.expandMaxWords ws d t a with ⟨-, hrequest⟩ | ⟨g, hg, -⟩
  · exact hrequest
  · cases hnone.symm.trans hg

/-! ### The classification of replies -/

/-- Status 200 with whole words in the body is a frame (R223). -/
theorem classify_ok_even {body : List Byte} (h : body.length % 2 = 0) :
    classify (.response 200 body) = .frame (wordsOfBytes body) := by
  simp [classify, h]

/-- Status 200 with a byte left over in the body is `InvalidFrame` (R223). -/
theorem classify_ok_odd {body : List Byte} (h : body.length % 2 = 1) :
    classify (.response 200 body) = .failed .invalidFrame := by
  simp [classify, h]

/-- A status the contract does not name is `InterfaceError`, with what the server said (R225). -/
theorem classify_other {status : Nat} (hok : status ≠ 200) (htimeout : status ≠ 408) (body : List Byte) :
    classify (.response status body) = .interfaceError (some (status, body)) := by
  simp [classify, hok, htimeout]

/-- Settles O58: a request is built on `TENC`'s answer, its timeout is passed on or left to R151's default, and a
reply is classified by its status, which for a completed transaction and a timeout the server has set by R226. -/
theorem tunnelClassification : Obligations.TunnelClassification :=
  ⟨fun _ _ _ t a =>
      ⟨fun _ h => TunnelRequest.ofFrame_of_tenc_bytes h t a,
        fun h => TunnelRequest.ofFrame_of_tenc_invalidInput h t a⟩,
    fun _ _ => ⟨fun _ => rfl, .absent, rfl, rfl⟩,
    fun body =>
      ⟨classify_ok_even, classify_ok_odd, rfl, fun _ hok htimeout => classify_other hok htimeout body⟩,
    rfl, rfl, serverStatus_timeout _, serverReply_completed _⟩

end Sys2Proof.Machine
end

section
/-!
PROOFS. Reset: the reset table, the `rst` event, and the invariant at reset.
-/

namespace Sys2Proof.Machine

open Sys2Proof.Config (Params)

/-- A block that is idle, with both units off and no flag raised, has nothing to report in `STATUS` (R22). -/
theorem State.status_eq_zero {s : State} (htst : s.tst = .idle) (htxst : s.tx.txst = .idle)
    (hrxst : s.rx.rxst = .off) (hdone : s.tx.txDone = false) (hcount : s.perrcnt = 0)
    (hbusy : s.xferBusy = false) : s.status = 0 := by
  simp only [State.status, State.txActive, State.rxActive, State.rxStall, State.perr, htst, htxst, hrxst,
    hdone, hcount, hbusy]
  rfl

/-- `STATUS` reads 0 after `rst` (R22, R240). -/
@[simp] theorem State.rst_status (s : State) : s.rst.status = 0 :=
  State.status_eq_zero rfl rfl rfl rfl rfl rfl

/-- `STATUS` reads 0 in the state after reset (R22, R240). -/
@[simp] theorem State.resetWith_status (p : Params) : (State.resetWith p).status = 0 :=
  State.status_eq_zero rfl rfl rfl rfl rfl rfl

/-- Settles O52: the step takes `rst` from the list, and what it leaves has the values of the reset table. -/
theorem resetEvent : Obligations.ResetEvent := by
  intro s rest hp hin
  have hstep : step s = .next ({ s with inputs := rest } : State).rst := step_cons hp hin
  refine ⟨_, hstep, ?_⟩
  simp [TxUnit.reset, RxUnit.reset]

/-- Settles O53: the reset table field by field, with `STATUS` read from the flags. -/
theorem resetState : Obligations.ResetState := by
  have hstatus : State.reset.status = 0 := State.resetWith_status _
  exact ⟨rfl, rfl, rfl, rfl, rfl, rfl, rfl, rfl, rfl, rfl, rfl, rfl, rfl, rfl, rfl, hstatus, rfl, rfl,
    rfl, rfl, rfl⟩

/-- The default parameters meet the constraints of R2. -/
theorem defaultParams_valid : Params.default.valid = true := by decide

/-- Settles O54: the invariant holds after reset with any valid parameters, and the defaults are valid. -/
theorem invariantHoldsAtReset : Obligations.InvariantHoldsAtReset :=
  ⟨State.inv_resetWith defaultParams_valid, fun _ hp => State.inv_resetWith hp⟩

end Sys2Proof.Machine
end
